-- ==== Sys2Proof/Word.lean ====
section
/-! DEFINITION. The words the manual exchanges: bytes, 7-bit addresses, two-byte values, and the 8-bit sum of a byte list. -/

namespace Sys2Proof

/-- A byte on a bus (R1: eight bits). -/
abbrev Byte := BitVec 8

/-- A 7-bit address (R1); the direction bit is always apart. -/
abbrev Addr := BitVec 7

/-- A value of two bytes (R166): a duration, a sequence number, bytes moved, an attention mask. -/
abbrev Word16 := BitVec 16

/-- The 8-bit sum of bytes (sections 9.3 and 9.5: a message and a reply sum to zero). -/
def byteSum : List Byte → Byte
  | [] => 0
  | b :: rest => b + byteSum rest

end Sys2Proof
end

