-- ==== Sys2Proof/Config.lean ====
section
/-! DEFINITION. The fixed numbers of the part (spec/00_scope.md, section 6; Tables 3-6 and 4-8) and the one free value. -/

namespace Sys2Proof

/-- Outcome log depth (R141). -/
abbrev Config.logDepth : Nat := 16
/-- Route entries at most (R100). -/
abbrev Config.routeCapacity : Nat := 32
/-- Leases in the table at most (R24). -/
abbrev Config.leaseCapacity : Nat := 8
/-- Leases of one port at most (R24). -/
abbrev Config.leasesPerPort : Nat := 4
/-- Consecutive upstream bus errors that bring quarantine (R135). -/
abbrev Config.quarantineThreshold : Nat := 4
/-- Arbitration retries of one address phase (R84). -/
abbrev Config.retryLimit : Nat := 3
/-- Bytes the message buffer stores (R155). -/
abbrev Config.messageCapacity : Nat := 16
/-- Clock pulses of one recovery at most (R90). -/
abbrev Config.recoveryPulses : Nat := 9
/-- Hold limit after device reset, in ms (Table 3-6). -/
abbrev Config.defaultHoldLimit : Byte := 20
/-- Owner idle limit after device reset, in ms (Table 3-6). -/
abbrev Config.defaultIdleLimit : Byte := 30
/-- Stuck limit after device reset, in ms (Table 4-8). -/
abbrev Config.defaultStuckLimit : Byte := 35
/-- Attention mask after device reset: the six event kinds (R150, R170: 0x7E00). -/
abbrev Config.defaultMask : Word16 := 0x7E00

/-- FREE VALUE (log entry 8): R171 says that a RESET pulse shorter than 1 ms either gives a full device reset or
leaves all state unchanged, and not which. The argument is the count of free values used before. -/
opaque Config.shortPulseResets : Nat → Bool

end Sys2Proof
end

