-- ==== Sys2Proof/Syntax.lean ====
section
/-! DEFINITION. The names of ports, segments and events, and the commands the block takes: one constructor of Instr
for each row of spec/opcode_table.json. -/

namespace Sys2Proof

/-- The upstream ports U0 to U3. -/
inductive Port
  | u0 | u1 | u2 | u3
  deriving DecidableEq, Repr

/-- The downstream segments S0 to S5. -/
inductive Seg
  | s0 | s1 | s2 | s3 | s4 | s5
  deriving DecidableEq, Repr

/-- One value for each upstream port. -/
structure PerPort (α : Type) where
  u0 : α
  u1 : α
  u2 : α
  u3 : α
  deriving DecidableEq, Repr

/-- One value for each downstream segment. -/
structure PerSeg (α : Type) where
  s0 : α
  s1 : α
  s2 : α
  s3 : α
  s4 : α
  s5 : α
  deriving DecidableEq, Repr

/-- The direction bit of an address byte (R1). -/
inductive Dir
  | write | read
  deriving DecidableEq, Repr

/-- An acknowledge bit (R1): low is ACK, high is NACK. -/
inductive AckBit
  | ack | nack
  deriving DecidableEq, Repr

/-- The two bus conditions of R1. -/
inductive BusCondition
  | start | stop
  deriving DecidableEq, Repr

/-- An address byte: a 7-bit address and a direction (R1). -/
structure AddrByte where
  addr : Addr
  dir : Dir
  deriving DecidableEq, Repr

/-- A line of a two-wire bus: the clock or the data line. -/
inductive BusLine
  | scl | sda
  deriving DecidableEq, Repr

/-- The levels of the strap pins at the end of a device reset, true for high (R153, R154, R171). -/
structure Straps where
  msel1 : Bool
  msel0 : Bool
  cfg : PerPort Bool
  deriving DecidableEq, Repr

/-- What reset the part (R171): a RESET pulse of 1 ms or more, or power-up; or a pulse shorter than 1 ms. -/
inductive ResetPulse
  | full | short
  deriving DecidableEq, Repr

/-- Where an arbitration loss falls (R83): at a bit the part sends as 1 (a NACK of its own included), or at the release
of the data line while an RS is formed. -/
inductive LossPoint
  | bit | repeatedStart
  deriving DecidableEq, Repr

/-- How far the byte on the upstream bus has come when an event cuts it (R58 step 3): its eighth bit has not been
clocked, or it has. -/
inductive BitPosition
  | beforeEighth | afterEighth
  deriving DecidableEq, Repr

/-- What an SGC reports of a byte it sent (R52, R55): an acknowledge, or an abort cause. -/
inductive ByteOutcome
  | ack
  | nack
  | lost
  | stuck (line : BusLine)
  | busError (seen : BusCondition)
  deriving DecidableEq, Repr

/-- One clock pulse of a recovery (Table 4-6, step 4): whether the clock read high within the stuck limit, and the
level of the data line sampled then. -/
structure RecoveryPulse where
  clockHigh : Bool
  dataHigh : Bool
  deriving DecidableEq, Repr

/-- What the lines of a segment do during a recovery (Table 4-6): the clock at step 2, the data line at step 3, the
pulses of step 4 in order, and the clock and data line of the STOP of step 5; true for high within the bound. -/
structure RecoveryLines where
  clockFreed : Bool
  dataHigh : Bool
  pulses : List RecoveryPulse
  stopClock : Bool
  stopData : Bool
  deriving DecidableEq, Repr

/-- What a switch reset finds on the buses: the segments one of whose lines another party holds low (R76), and the ports
that present a read byte whose eighth bit has been clocked (R67; log entry 16). -/
structure ResetSample where
  low : List Seg
  clocked : List Port
  deriving DecidableEq, Repr

/-- What a hold expiry finds: the segments one of whose lines another party holds low (R76), and whether the withdrawal it
sends is still on its way to the Arbiter when the step ends, so that a grant may reach the claim first (R51, R118). The
port's next HOLD_EXPIRY is then the withdrawal's arrival (log entry 32). -/
structure ExpirySample where
  low : List Seg
  crossing : Bool
  deriving DecidableEq, Repr

/-- The commands of the block, in the order of spec/opcode_table.json. An operand named low lists the segments one of
whose lines another party holds low during the step (asked for by R76; log entry 3). -/
inductive Instr
  | deviceReset (pulse : ResetPulse) (straps : Straps)
  | addressByte (p : Port) (b : AddrByte) (low : List Seg)
  | startFormed (sg : Seg)
  | addressResult (sg : Seg) (r : ByteOutcome) (low : List Seg)
  | dataByte (p : Port) (b : Byte)
  | byteResult (sg : Seg) (r : ByteOutcome) (low : List Seg)
  | readByte (sg : Seg) (b : Byte)
  | masterAcknowledge (p : Port) (a : AckBit)
  | upstreamStop (p : Port) (low : List Seg)
  | upstreamBusError (p : Port) (seen : BusCondition) (pos : BitPosition) (low : List Seg)
  | mgmtDataByte (p : Port) (b : Byte)
  | managementWriteEnd (p : Port) (seen : BusCondition)
  | mgmtReadAcknowledge (p : Port) (a : AckBit)
  | unknownCommand (p : Port) (low : List Seg)
  | status (p : Port) (low : List Seg)
  | portSet (p : Port) (low : List Seg)
  | switchReset (p : Port) (found : ResetSample)
  | reserve (p : Port) (low : List Seg)
  | renew (p : Port) (low : List Seg)
  | release (p : Port) (low : List Seg)
  | revoke (p : Port) (low : List Seg)
  | leaseList (p : Port) (low : List Seg)
  | segmentSet (p : Port) (low : List Seg)
  | segmentRecover (p : Port) (low : List Seg)
  | mapSet (p : Port) (low : List Seg)
  | mapClear (p : Port) (low : List Seg)
  | mapRead (p : Port) (low : List Seg)
  | portRestore (p : Port) (low : List Seg)
  | logRead (p : Port) (low : List Seg)
  | holdExpiry (p : Port) (found : ExpirySample)
  | ownerIdleExpiry (p : Port) (pos : BitPosition) (low : List Seg)
  | leaseExpiry (id : Byte)
  | stuckScl (sg : Seg) (low : List Seg)
  | stuckSda (sg : Seg) (low : List Seg)
  | recoverySuccess (sg : Seg) (seen : RecoveryLines)
  | recoveryFailure (sg : Seg) (seen : RecoveryLines)
  | busFreeCheck (sg : Seg)
  | startSeen (sg : Seg) (low : List Seg)
  | stopSeen (sg : Seg) (low : List Seg)
  | arbitrationLoss (sg : Seg) (point : LossPoint) (low : List Seg)
  | stopDone (sg : Seg) (low : List Seg)
  deriving DecidableEq, Repr

end Sys2Proof
end

