-- ==== Sys2Proof/WellFormed.lean ====
section
/-! DEFINITION. What operands a command may carry. Exec is total all the same; these checks say which commands the
outside can mean. -/

namespace Sys2Proof

/-- A lease id is 1 to 255 (R22, R25). -/
def leaseIdOk (id : Byte) : Bool := id != 0

/-- A recovery gives at most nine pulses (R90). -/
def recoveryLinesOk (seen : RecoveryLines) : Bool := seen.pulses.length ≤ Config.recoveryPulses

/-- A list of segments, or of ports, names each at most once. -/
def noRepeat {α : Type} [BEq α] : List α → Bool
  | [] => true
  | x :: rest => !rest.contains x && noRepeat rest

/-- The commands whose operands are in range. -/
def WellFormed : Instr → Bool
  | .deviceReset _ _ => true
  | .addressByte _ _ low => noRepeat low
  | .startFormed _ => true
  | .addressResult _ _ low => noRepeat low
  | .dataByte _ _ => true
  | .byteResult _ _ low => noRepeat low
  | .readByte _ _ => true
  | .masterAcknowledge _ _ => true
  | .upstreamStop _ low => noRepeat low
  | .upstreamBusError _ _ _ low => noRepeat low
  | .mgmtDataByte _ _ => true
  | .managementWriteEnd _ _ => true
  | .mgmtReadAcknowledge _ _ => true
  | .unknownCommand _ low => noRepeat low
  | .status _ low => noRepeat low
  | .portSet _ low => noRepeat low
  | .switchReset _ found => noRepeat found.clocked && noRepeat found.low
  | .reserve _ low => noRepeat low
  | .renew _ low => noRepeat low
  | .release _ low => noRepeat low
  | .revoke _ low => noRepeat low
  | .leaseList _ low => noRepeat low
  | .segmentSet _ low => noRepeat low
  | .segmentRecover _ low => noRepeat low
  | .mapSet _ low => noRepeat low
  | .mapClear _ low => noRepeat low
  | .mapRead _ low => noRepeat low
  | .portRestore _ low => noRepeat low
  | .logRead _ low => noRepeat low
  | .holdExpiry _ found => noRepeat found.low
  | .ownerIdleExpiry _ _ low => noRepeat low
  | .leaseExpiry id => leaseIdOk id
  | .stuckScl _ low => noRepeat low
  | .stuckSda _ low => noRepeat low
  | .recoverySuccess _ seen => recoveryLinesOk seen
  | .recoveryFailure _ seen => recoveryLinesOk seen
  | .busFreeCheck _ => true
  | .startSeen _ low => noRepeat low
  | .stopSeen _ low => noRepeat low
  | .arbitrationLoss _ _ low => noRepeat low
  | .stopDone _ low => noRepeat low

end Sys2Proof
end

