-- ==== Sys2Proof/Machine/State.lean ====
section
/-! DEFINITION. The state of the part: every record the spec gives it, the pins, and the queue of waiting commands;
and the state right after a device reset. -/

namespace Sys2Proof.Machine

/-- Port phases (Table 3-2). -/
inductive Phase
  | idle | mgmtWrite | mgmtRead | claim | opening | fwdWrite | fwdRead | awaitEnd | drain
  deriving DecidableEq, Repr

/-- A downstream destination (R6, R71): a device address, or the general call. -/
inductive Dest
  | device (a : Addr)
  | generalCall
  deriving DecidableEq, Repr

/-- The route copied into a port's context (Table 3-1). -/
structure Route where
  visible : Addr
  seg : Seg
  downstream : Addr
  dir : Dir
  deriving DecidableEq, Repr

/-- Marks of a broadcast set member (R113). -/
inductive Mark
  | pending | owned | dropped
  deriving DecidableEq, Repr

/-- One member of a broadcast set (R113). -/
structure Member where
  seg : Seg
  mark : Mark
  deriving DecidableEq, Repr

/-- A port timer (Table 3-1): running or stopped, with the limit taken for it, in ms. -/
structure Timer where
  limit : Byte
  running : Bool
  deriving DecidableEq, Repr

/-- Who set a pending ABORT: an abort cause, which wrote its record, or a switch reset, which wrote none (Table 7-4). -/
inductive AbortSetter
  | cause | switchReset
  deriving DecidableEq, Repr

/-- A pending END or ABORT with the event that set it (R44, Table 7-4). -/
inductive Ending
  /-- END, set by the master's STOP (R63). -/
  | stop
  /-- END, set by a hold expiry (R54, R118, R121). -/
  | hold
  /-- END that replaced an ABORT (R44, R133). -/
  | stopAfterAbort (setter : AbortSetter)
  /-- ABORT (R126, R70). -/
  | abort (setter : AbortSetter)
  deriving DecidableEq, Repr

/-- RELEASE PENDING (R44): END or ABORT, or ADDRESS with its held address byte and the cause it replaced. -/
inductive Pending
  | ending (e : Ending)
  | address (b : AddrByte) (replaced : Option Ending)
  deriving DecidableEq, Repr

/-- Reply statuses (Table 9-5). -/
inductive Status
  | ok | noReply | badLength | badCheck | unknownCommand | badArgument | denied | busy | conflict | alreadyHeld
  | tableFull | notFound
  deriving DecidableEq, Repr

/-- A reply (R159); its length byte and its check byte follow from these. -/
structure Reply where
  status : Status
  payload : List Byte
  deriving DecidableEq, Repr

/-- A management message (R155): the bytes stored and the overlong mark. -/
structure Message where
  bytes : List Byte
  overlong : Bool
  deriving DecidableEq, Repr

/-- The context of one port (Table 3-1), its part of the Management Engine's work, and the pins of its bus. -/
structure PortCtx where
  phase : Phase
  route : Option Route
  bset : Option (List Member)
  bytesMoved : Word16
  hold : Timer
  idle : Timer
  release : Option Pending
  abortReported : Bool
  /-- A broadcast in hand has left a refusal record (R114 to R117), which R130 asks for (log entry 11). -/
  refusalLeft : Bool
  /-- The segment named in a withdrawal that has been sent and not yet answered (R15, R51, R118; log entry 32). -/
  withdrawal : Option Seg
  quarantineHeld : Bool
  message : Message
  errCount : Nat
  quarantined : Bool
  holdLimit : Byte
  idleLimit : Byte
  mask : Word16
  reply : Reply
  /-- The message handed to the Engine and not yet answered (R156, R157). -/
  handed : Option Message
  /-- The address byte held until the reply is written (R157). -/
  heldAddr : Option AddrByte
  /-- The number of the reply byte being read in MGMT_READ; none once the master has NACKed (R160). -/
  readPos : Option Nat
  /-- The part holds the upstream clock low (Table 3-2). -/
  sclHeld : Bool
  /-- The acknowledge bit the part gave last; NACK is the absence of its drive (R46). -/
  ack : Option AckBit
  /-- The byte the part presents on the data line; none when it releases the line (a byte then reads 0xFF). -/
  out : Option Byte
  deriving DecidableEq, Repr

/-- Record kinds (Table 8-2). -/
inductive RecordKind
  | accessDenied | reservedElsewhere | segmentUnavailable | waitExpired | abortLost | abortStuck | abortOwnerIdle
  | abortUpstreamError | abortDownstreamError | segmentFault | recoveryDone | leaseExpired | leaseRevoked
  | quarantined | resetNotice
  deriving DecidableEq, Repr

/-- The detail of a record (Tables 8-2 and 10-6). -/
inductive Detail
  | zero
  | addressPhase
  | dataPhase
  | stuckScl
  | stuckSda
  | success
  | failed
  | revoked (n : Nat)
  deriving DecidableEq, Repr

/-- What the writing block gives a record (R142): all fields but the number and the lost-after flag. -/
structure RecordBody where
  kind : RecordKind
  visible : Option Addr
  seg : Option Seg
  bytesMoved : Option Word16
  leaseId : Option Byte
  detail : Detail
  deriving DecidableEq, Repr

/-- An outcome record (Table 8-1). -/
structure Record where
  seq : Word16
  lostAfter : Bool
  body : RecordBody
  deriving DecidableEq, Repr

/-- One Outcome Log (R141), oldest record first, and the attention line it drives, true while driven low (R149). -/
structure Log where
  records : List Record
  nextSeq : Word16
  attLow : Bool
  deriving DecidableEq, Repr

/-- Kinds of claim and of ownership (R5, R6). -/
inductive OwnerKind
  | single | broadcast
  deriving DecidableEq, Repr

/-- The owner of a segment and the owner kind, present together (Table 1-1). -/
structure Owner where
  port : Port
  kind : OwnerKind
  deriving DecidableEq, Repr

/-- A claim (R6): the port and the downstream address; the kind is SINGLE for a device and BROADCAST for the general
call. -/
structure Claim where
  port : Port
  dest : Dest
  deriving DecidableEq, Repr

/-- A segment record (Table 1-1). The condition is not stored (R3). -/
structure SegRecord where
  owner : Option Owner
  waitList : List Claim
  deriving DecidableEq, Repr

/-- Line states of an SGC (Table 4-2). -/
inductive LineState
  | idle | foreign | busWait | address | write | read | ackHold | parked | stopping | recovery | faulted
  deriving DecidableEq, Repr

/-- Downstream rates (Table 4-1). -/
inductive Rate
  | khz10 | khz100 | khz400
  deriving DecidableEq, Repr

/-- Recovery origin (Table 4-1). -/
inductive RecoveryOrigin
  | automatic (owner : Port)
  | command (requester : Port)
  deriving DecidableEq, Repr

/-- The address byte an SGC is sending or will send (Table 4-1). -/
structure AddressInHand where
  dest : Dest
  dir : Dir
  deriving DecidableEq, Repr

/-- The state of one Segment Controller (Table 4-1), and what R79 to R83 and R98 imply beside it. -/
structure Sgc where
  line : LineState
  busBusy : Bool
  activeRate : Rate
  activeStuck : Byte
  pendingRate : Rate
  pendingStuck : Byte
  broadcastFlag : Bool
  inHand : Option AddressInHand
  dataDir : Option Dir
  retry : Nat
  origin : Option RecoveryOrigin
  /-- A close has been taken and its steps are not done (Table 4-4). -/
  closing : Bool
  /-- The bus-free check of a switch reset is running in RECOVERY or FAULTED (Table 4-9). -/
  freeCheck : Bool
  /-- The address attempt in hand follows an RS, which may still be forming (R81, R83, R88). -/
  formingRs : Bool
  /-- The last thing asked of the SGC is a NACK of its own as the ninth bit of a read byte (R80, R83). -/
  nackOut : Bool
  /-- The write byte being sent (R79). -/
  txByte : Option Byte
  deriving DecidableEq, Repr

/-- A lease record (Table 2-1). -/
structure Lease where
  id : Byte
  holder : Port
  seg : Seg
  target : Option Addr
  remaining : Word16
  /-- The count of R26 has run out and the expiry has not been taken (the model's own field, log entry 4). -/
  due : Bool
  deriving DecidableEq, Repr

/-- The access field of a route entry (Table 5-1). -/
structure Access where
  read : Bool
  write : Bool
  deriving DecidableEq, Repr

/-- A route entry (Table 5-1). -/
structure RouteEntry where
  visible : Addr
  seg : Seg
  downstream : Addr
  ports : PerPort Bool
  access : Access
  deriving DecidableEq, Repr

/-- The state of the part. The lease table is held in ascending order of id, the route map in ascending order of
visible address (R100). -/
structure State where
  ports : PerPort PortCtx
  logs : PerPort Log
  segs : PerSeg SegRecord
  sgcs : PerSeg Sgc
  leases : List Lease
  nextLeaseId : Byte
  map : List RouteEntry
  straps : Straps
  /-- The downstream pins as other parties pull them, last sampled: true when one of the two lines is held low. -/
  linesLow : PerSeg Bool
  /-- How many free values have been used (the model's own field, log entry 8). -/
  freeCount : Nat
  /-- The commands that wait, first in, first out. -/
  pending : List Instr
  deriving DecidableEq, Repr

/-- No step of the part stops with a fault: the spec names none. Safe: there is nothing to raise. -/
inductive Fault
  deriving DecidableEq, Repr

/-- Why a step has no meaning. -/
inductive Refusal
  /-- Raised only for a command not modelled yet, by its mnemonic. Safe: the model stops. -/
  | notModelled (mnemonic : String)
  deriving DecidableEq, Repr

/-- Table 3-6, with the pins released (R171) and no message in hand (R165). -/
def PortCtx.reset : PortCtx :=
  { phase := .idle, route := none, bset := none, bytesMoved := 0
    hold := ⟨Config.defaultHoldLimit, false⟩, idle := ⟨Config.defaultIdleLimit, false⟩
    release := none, abortReported := false, refusalLeft := false, withdrawal := none
    quarantineHeld := false, message := ⟨[], false⟩
    errCount := 0, quarantined := false
    holdLimit := Config.defaultHoldLimit, idleLimit := Config.defaultIdleLimit, mask := Config.defaultMask
    reply := ⟨.noReply, []⟩, handed := none, heldAddr := none, readPos := none
    sclHeld := false, ack := none, out := none }

/-- R151. -/
def Log.reset : Log := { records := [], nextSeq := 0, attLow := false }

/-- R19. -/
def SegRecord.reset : SegRecord := { owner := none, waitList := [] }

/-- Table 4-8. -/
def Sgc.reset : Sgc :=
  { line := .foreign, busBusy := true, activeRate := .khz100, activeStuck := Config.defaultStuckLimit
    pendingRate := .khz100, pendingStuck := Config.defaultStuckLimit, broadcastFlag := false
    inHand := none, dataDir := none, retry := 0, origin := none, closing := false, freeCheck := false
    formingRs := false, nackOut := false, txByte := none }

/-- The machine right after a device reset (R171). The straps are board inputs: all low here (log entry 6). -/
def State.reset : State :=
  { ports := ⟨PortCtx.reset, PortCtx.reset, PortCtx.reset, PortCtx.reset⟩
    logs := ⟨Log.reset, Log.reset, Log.reset, Log.reset⟩
    segs := ⟨SegRecord.reset, SegRecord.reset, SegRecord.reset, SegRecord.reset, SegRecord.reset, SegRecord.reset⟩
    sgcs := ⟨Sgc.reset, Sgc.reset, Sgc.reset, Sgc.reset, Sgc.reset, Sgc.reset⟩
    leases := [], nextLeaseId := 1, map := []
    straps := ⟨false, false, ⟨false, false, false, false⟩⟩
    linesLow := ⟨false, false, false, false, false, false⟩
    freeCount := 0, pending := [] }

end Sys2Proof.Machine
end

