-- ==== Sys2Proof/Machine/Access.lean ====
section
/-! DEFINITION. Reading and writing one port's, one log's or one segment's part of the state. -/

namespace Sys2Proof

/-- U0 to U3. -/
def Port.all : List Port := [.u0, .u1, .u2, .u3]

/-- S0 to S5, ascending. -/
def Seg.all : List Seg := [.s0, .s1, .s2, .s3, .s4, .s5]

def PerPort.get {α : Type} (v : PerPort α) : Port → α
  | .u0 => v.u0
  | .u1 => v.u1
  | .u2 => v.u2
  | .u3 => v.u3

def PerPort.modify {α : Type} (v : PerPort α) (p : Port) (f : α → α) : PerPort α :=
  match p with
  | .u0 => { v with u0 := f v.u0 }
  | .u1 => { v with u1 := f v.u1 }
  | .u2 => { v with u2 := f v.u2 }
  | .u3 => { v with u3 := f v.u3 }

/-- Apply f to every port's value. -/
def PerPort.mapAll {α β : Type} (v : PerPort α) (f : Port → α → β) : PerPort β :=
  ⟨f .u0 v.u0, f .u1 v.u1, f .u2 v.u2, f .u3 v.u3⟩

def PerSeg.get {α : Type} (v : PerSeg α) : Seg → α
  | .s0 => v.s0
  | .s1 => v.s1
  | .s2 => v.s2
  | .s3 => v.s3
  | .s4 => v.s4
  | .s5 => v.s5

def PerSeg.modify {α : Type} (v : PerSeg α) (sg : Seg) (f : α → α) : PerSeg α :=
  match sg with
  | .s0 => { v with s0 := f v.s0 }
  | .s1 => { v with s1 := f v.s1 }
  | .s2 => { v with s2 := f v.s2 }
  | .s3 => { v with s3 := f v.s3 }
  | .s4 => { v with s4 := f v.s4 }
  | .s5 => { v with s5 := f v.s5 }

/-- Apply f to every segment's value. -/
def PerSeg.mapAll {α β : Type} (v : PerSeg α) (f : Seg → α → β) : PerSeg β :=
  ⟨f .s0 v.s0, f .s1 v.s1, f .s2 v.s2, f .s3 v.s3, f .s4 v.s4, f .s5 v.s5⟩

namespace Machine

def State.port (s : State) (p : Port) : PortCtx := s.ports.get p
def State.log (s : State) (p : Port) : Log := s.logs.get p
def State.seg (s : State) (sg : Seg) : SegRecord := s.segs.get sg
def State.sgc (s : State) (sg : Seg) : Sgc := s.sgcs.get sg

def State.modPort (s : State) (p : Port) (f : PortCtx → PortCtx) : State := { s with ports := s.ports.modify p f }
def State.modLog (s : State) (p : Port) (f : Log → Log) : State := { s with logs := s.logs.modify p f }
def State.modSeg (s : State) (sg : Seg) (f : SegRecord → SegRecord) : State := { s with segs := s.segs.modify sg f }
def State.modSgc (s : State) (sg : Seg) (f : Sgc → Sgc) : State := { s with sgcs := s.sgcs.modify sg f }
def State.setLeases (s : State) (l : List Lease) : State := { s with leases := l }
def State.setMap (s : State) (m : List RouteEntry) : State := { s with map := m }

/-- The step samples the downstream lines: the listed segments have a line that another party holds low. -/
def State.sampleLines (s : State) (low : List Seg) : State :=
  { s with linesLow := s.linesLow.mapAll fun sg _ => low.contains sg }

end Machine
end Sys2Proof
end

