-- ==== Sys2Proof/Machine/Flags.lean ====
section
/-! DEFINITION. Everything the manual derives from the state rather than stores: conditions, privilege, the management
address, lease cover, the attention line's rule, ownership, and what the part drives on each segment. -/

namespace Sys2Proof.Machine

/-- The condition of a segment (R72). -/
inductive Condition
  | available | recovering | faulted
  deriving DecidableEq, Repr

/-- R72: RECOVERY gives RECOVERING, FAULTED gives FAULTED, every other line state AVAILABLE. -/
def lineCondition : LineState → Condition
  | .recovery => .recovering
  | .faulted => .faulted
  | .idle | .foreign | .busWait | .address | .write | .read | .ackHold | .parked | .stopping => .available

/-- The condition as read from the segment's SGC (R3). -/
def State.condition (s : State) (sg : Seg) : Condition := lineCondition (s.sgc sg).line

/-- What the part does to a line of a segment. -/
inductive Drive
  | released | held | driven | byRecovery
  deriving DecidableEq, Repr

/-- What RECOVERY does to a line: the sequence of Table 4-6 drives it; once a switch reset has abandoned the sequence
for the bus-free check both lines are released (R98, Table 4-9). -/
def recoveryDrive (freeCheck : Bool) : Drive := if freeCheck then .released else .byRecovery

/-- The clock line (Table 4-2). -/
def clockDrive (c : Sgc) : Drive :=
  match c.line with
  | .idle | .foreign | .busWait | .faulted => .released
  | .address | .write | .read | .stopping => .driven
  | .ackHold | .parked => .held
  | .recovery => recoveryDrive c.freeCheck

/-- The data line (Table 4-2); a driven line is released for the acknowledge of ADDRESS and WRITE. -/
def dataDrive (c : Sgc) : Drive :=
  match c.line with
  | .idle | .foreign | .busWait | .faulted | .read | .ackHold | .parked => .released
  | .address | .write | .stopping => .driven
  | .recovery => recoveryDrive c.freeCheck

/-- Table 9-1. -/
def mgmtAddress (st : Straps) : Addr :=
  match st.msel1, st.msel0 with
  | false, false => 0x1C
  | false, true => 0x2C
  | true, false => 0x4C
  | true, true => 0x6C

/-- R154: port n is privileged if CFGn was high; if all four were low, U0 alone. -/
def privileged (st : Straps) (p : Port) : Bool :=
  if st.cfg.u0 || st.cfg.u1 || st.cfg.u2 || st.cfg.u3 then st.cfg.get p else p == .u0

/-- Record kind codes (Table 10-6). -/
def RecordKind.code : RecordKind → Nat
  | .accessDenied => 0
  | .reservedElsewhere => 1
  | .segmentUnavailable => 2
  | .waitExpired => 3
  | .abortLost => 4
  | .abortStuck => 5
  | .abortOwnerIdle => 6
  | .abortUpstreamError => 7
  | .abortDownstreamError => 8
  | .segmentFault => 9
  | .recoveryDone => 10
  | .leaseExpired => 11
  | .leaseRevoked => 12
  | .quarantined => 13
  | .resetNotice => 14

/-- Whether an attention mask holds a kind (R150, R166: bit k for the kind of code k). -/
def maskHas (mask : Word16) (k : RecordKind) : Bool := mask.getLsbD k.code

/-- R149: whether some record held has a kind in the mask. -/
def attentionDue (mask : Word16) (records : List Record) : Bool := records.any fun r => maskHas mask r.body.kind

/-- The kind of a claim (R6). -/
def Dest.kind : Dest → OwnerKind
  | .device _ => .single
  | .generalCall => .broadcast

/-- R29, R17: a lease covers a claim on its segment when it is whole-segment, or names the claim's device, or the claim
is a broadcast's. -/
def Lease.covers (l : Lease) (sg : Seg) (d : Dest) : Bool :=
  l.seg == sg &&
    match d, l.target with
    | .generalCall, _ => true
    | .device _, none => true
    | .device a, some t => t == a

/-- R23. -/
def Lease.overlaps (l : Lease) (sg : Seg) (target : Option Addr) : Bool :=
  l.seg == sg &&
    match l.target, target with
    | none, _ => true
    | _, none => true
    | some t, some u => t == u

/-- R29: the lease of another port that covers the destination, the lowest id where several do (the table is held in
ascending id). -/
def State.coveringLease (s : State) (p : Port) (sg : Seg) (d : Dest) : Option Lease :=
  s.leases.find? fun l => l.holder != p && l.covers sg d

/-- The leases a port holds, in ascending id. -/
def State.leasesHeld (s : State) (p : Port) : List Lease := s.leases.filter fun l => l.holder == p

/-- Whether the segment record names this port as owner. -/
def State.owns (s : State) (p : Port) (sg : Seg) : Bool :=
  match (s.seg sg).owner with
  | some o => o.port == p
  | none => false

/-- The segments a port owns, ascending. -/
def State.ownedBy (s : State) (p : Port) : List Seg := Seg.all.filter (s.owns p)

/-- The mark of a segment in a broadcast set. -/
def markIn (set : List Member) (sg : Seg) : Option Mark := (set.find? fun m => m.seg == sg).map (·.mark)

/-- The mark of a segment in a port's broadcast set, if the port has one and the segment is in it. -/
def State.markOf (s : State) (p : Port) (sg : Seg) : Option Mark :=
  match (s.port p).bset with
  | some set => markIn set sg
  | none => none

/-- The members OWNED in a port's broadcast set, ascending. -/
def State.ownedMembers (s : State) (p : Port) : List Seg := Seg.all.filter fun sg => s.markOf p sg == some .owned

/-- The segment in whose wait list a claim of the port stands. -/
def State.waitingIn (s : State) (p : Port) : Option Seg :=
  Seg.all.find? fun sg => (s.seg sg).waitList.any fun c => c.port == p

/-- R68: whether the port is a party to the transaction on its bus. -/
def PortCtx.party (c : PortCtx) : Bool :=
  match c.phase, c.release with
  | .idle, _ => false
  | .awaitEnd, some (.ending .stop) => false
  | .awaitEnd, some (.ending .hold) => false
  | .awaitEnd, some (.ending (.stopAfterAbort _)) => false
  | _, _ => true

end Sys2Proof.Machine
end

