-- ==== Sys2Proof/Machine/Operands.lean ====
section
/-! DEFINITION. The bytes of chapter 10: command identifiers, argument decoding with its range checks, status codes,
the reply's bytes and the payload layouts. -/

namespace Sys2Proof.Machine

/-- The fifteen commands (Table 9-3). -/
inductive CommandId
  | status | portSet | switchReset | reserve | renew | release | revoke | leaseList | segmentSet | segmentRecover
  | mapSet | mapClear | mapRead | portRestore | logRead
  deriving DecidableEq, Repr

/-- Command identifiers (Table 10-2). -/
def commandOfByte (b : Byte) : Option CommandId :=
  match b.toNat with
  | 0x01 => some .status
  | 0x02 => some .portSet
  | 0x0F => some .switchReset
  | 0x20 => some .reserve
  | 0x21 => some .renew
  | 0x22 => some .release
  | 0x23 => some .revoke
  | 0x24 => some .leaseList
  | 0x30 => some .segmentSet
  | 0x31 => some .segmentRecover
  | 0x40 => some .mapSet
  | 0x41 => some .mapClear
  | 0x42 => some .mapRead
  | 0x50 => some .portRestore
  | 0x60 => some .logRead
  | _ => none

/-- Argument counts (Table 10-2). -/
def argumentCount : CommandId → Nat
  | .status => 0
  | .portSet => 4
  | .switchReset => 0
  | .reserve => 4
  | .renew => 3
  | .release => 1
  | .revoke => 1
  | .leaseList => 0
  | .segmentSet => 4
  | .segmentRecover => 1
  | .mapSet => 5
  | .mapClear => 1
  | .mapRead => 1
  | .portRestore => 1
  | .logRead => 1

/-- The commands marked privileged (Table 9-3). -/
def needsPrivilege : CommandId → Bool
  | .switchReset | .revoke | .segmentSet | .mapSet | .mapClear | .portRestore => true
  | .status | .portSet | .reserve | .renew | .release | .leaseList | .segmentRecover | .mapRead | .logRead => false

/-- The commands refused DENIED to a quarantined port (R33, R35). -/
def closedToQuarantined : CommandId → Bool
  | .reserve | .renew => true
  | .status | .portSet | .switchReset | .release | .revoke | .leaseList | .segmentSet | .segmentRecover | .mapSet
  | .mapClear | .mapRead | .portRestore | .logRead => false

/-- What steps 1 to 3 of the order of checks make of a message (Table 9-4). -/
inductive Parsed
  | refused (st : Status)
  | command (c : CommandId) (args : List Byte)
  deriving DecidableEq, Repr

/-- Steps 1 to 3 of Table 9-4: the length and the overlong mark, the sum, the identifier. -/
def Message.parse (m : Message) : Parsed :=
  if m.bytes.length < 2 || Config.messageCapacity < m.bytes.length || m.overlong then .refused .badLength
  else if byteSum m.bytes != 0 then .refused .badCheck
  else
    match m.bytes with
    | [] => .refused .badLength
    | b :: rest =>
      match commandOfByte b with
      | none => .refused .unknownCommand
      | some c => .command c rest.dropLast

/-- A port code (Table 10-1). -/
def portOfByte (b : Byte) : Option Port :=
  match b.toNat with
  | 0 => some .u0
  | 1 => some .u1
  | 2 => some .u2
  | 3 => some .u3
  | _ => none

/-- A segment code (Table 10-1). -/
def segOfByte (b : Byte) : Option Seg :=
  match b.toNat with
  | 0 => some .s0
  | 1 => some .s1
  | 2 => some .s2
  | 3 => some .s3
  | 4 => some .s4
  | 5 => some .s5
  | _ => none

/-- A visible or downstream address argument: 0x08 to 0x77, bit 7 zero (R99, Table 10-1). -/
def addrOfByte (b : Byte) : Option Addr :=
  if 0x08 ≤ b.toNat && b.toNat ≤ 0x77 then some (b.setWidth 7) else none

/-- The target-or-whole argument of RESERVE (R166): 0x00 is the whole segment. -/
def targetOfByte (b : Byte) : Option (Option Addr) :=
  if b == 0 then some none else (addrOfByte b).map some

/-- Two bytes, most significant first (R166). -/
def wordOf (hi lo : Byte) : Word16 := hi.setWidth 16 <<< 8 ||| lo.setWidth 16

/-- A duration: 1 to 60000 ms (Table 10-1). -/
def durationOf (hi lo : Byte) : Option Word16 :=
  let w := wordOf hi lo
  if 1 ≤ w.toNat && w.toNat ≤ 60000 then some w else none

/-- A lease id argument: 1 to 255 (Table 10-1). -/
def leaseIdOfByte (b : Byte) : Option Byte := if b == 0 then none else some b

/-- A rate code (Table 10-1). -/
def rateOfByte (b : Byte) : Option Rate :=
  match b.toNat with
  | 0 => some .khz10
  | 1 => some .khz100
  | 2 => some .khz400
  | _ => none

/-- A stuck limit: 5 to 250 ms (R95). -/
def stuckLimitOf (b : Byte) : Option Byte := if 5 ≤ b.toNat && b.toNat ≤ 250 then some b else none

/-- A hold limit or owner idle limit: 1 to 250 ms (R162). -/
def portLimitOf (b : Byte) : Option Byte := if 1 ≤ b.toNat && b.toNat ≤ 250 then some b else none

/-- The broadcast flag byte (R166). -/
def flagOfByte (b : Byte) : Option Bool :=
  match b.toNat with
  | 0 => some false
  | 1 => some true
  | _ => none

/-- A port mask: bits 3 to 0, at least one set, no other bit set (R108, R166). -/
def portMaskOf (b : Byte) : Option (PerPort Bool) :=
  if 1 ≤ b.toNat && b.toNat ≤ 15 then some ⟨b.getLsbD 0, b.getLsbD 1, b.getLsbD 2, b.getLsbD 3⟩ else none

/-- An access byte: bit 0 read, bit 1 write, at least one set, no other bit set (R108, R166). -/
def accessOf (b : Byte) : Option Access :=
  if 1 ≤ b.toNat && b.toNat ≤ 3 then some ⟨b.getLsbD 0, b.getLsbD 1⟩ else none

/-- An attention mask names only the fifteen kinds: bit 15 is clear (R162, R166). -/
def maskOf (hi lo : Byte) : Option Word16 :=
  let w := wordOf hi lo
  if w.getLsbD 15 then none else some w

/-- The n of LOG_READ: 1 to 4 (R147). -/
def readCountOf (b : Byte) : Option Nat := if 1 ≤ b.toNat && b.toNat ≤ 4 then some b.toNat else none

/-- The index of MAP_READ: 0 to 31 (R111). -/
def indexOf (b : Byte) : Option Nat := if b.toNat < Config.routeCapacity then some b.toNat else none

/-- Port codes (Table 10-1). -/
def portCode : Port → Byte
  | .u0 => 0
  | .u1 => 1
  | .u2 => 2
  | .u3 => 3

/-- Segment codes (Table 10-1). -/
def segCode : Seg → Byte
  | .s0 => 0
  | .s1 => 1
  | .s2 => 2
  | .s3 => 3
  | .s4 => 4
  | .s5 => 5

/-- An address as a byte, bit 7 zero. -/
def addrCode (a : Addr) : Byte := a.setWidth 8

/-- The two bytes of a value, most significant first (R166). -/
def wordBytes (w : Word16) : List Byte := [(w >>> 8).setWidth 8, w.setWidth 8]

/-- Status codes (Table 10-3). -/
def statusCode : Status → Byte
  | .ok => 0x00
  | .noReply => 0x01
  | .badLength => 0x10
  | .badCheck => 0x11
  | .unknownCommand => 0x12
  | .badArgument => 0x13
  | .denied => 0x14
  | .busy => 0x20
  | .conflict => 0x21
  | .alreadyHeld => 0x22
  | .tableFull => 0x23
  | .notFound => 0x24

/-- The status, length and payload bytes of a reply (Table 10-3). -/
def Reply.body (r : Reply) : List Byte := statusCode r.status :: BitVec.ofNat 8 r.payload.length :: r.payload

/-- The bytes of a reply: the check byte makes their sum zero (R159, Table 10-3). -/
def Reply.bytes (r : Reply) : List Byte := r.body ++ [-(byteSum r.body)]

/-- A refusal with an empty payload (R159). -/
def Reply.bare (st : Status) : Reply := ⟨st, []⟩

/-- Detail codes (Table 10-6). -/
def detailCode : Detail → Byte
  | .zero => 0
  | .addressPhase => 1
  | .dataPhase => 2
  | .stuckScl => 1
  | .stuckSda => 2
  | .success => 1
  | .failed => 2
  | .revoked n => BitVec.ofNat 8 n

/-- A bit of a byte being laid out: the weight when the flag is set. -/
def bitIf (flag : Bool) (weight : Nat) : Nat := if flag then weight else 0

/-- Byte 3 of a record (Table 10-6): the lost-after flag and the four presence bits. -/
def recordFlags (r : Record) : Byte :=
  BitVec.ofNat 8 (bitIf r.lostAfter 128 + bitIf r.body.visible.isSome 8 + bitIf r.body.seg.isSome 4
    + bitIf r.body.bytesMoved.isSome 2 + bitIf r.body.leaseId.isSome 1)

/-- The 10 bytes of a record (Table 10-6); an absent field reads 0x00. -/
def recordBytes (r : Record) : List Byte :=
  wordBytes r.seq ++ [BitVec.ofNat 8 r.body.kind.code, recordFlags r,
    (r.body.visible.map addrCode).getD 0, (r.body.seg.map segCode).getD 0] ++
  wordBytes (r.body.bytesMoved.getD 0) ++ [r.body.leaseId.getD 0, detailCode r.body.detail]

/-- The LOG_READ payload (Table 10-7). -/
def logPayload (rs : List Record) : List Byte := BitVec.ofNat 8 rs.length :: rs.flatMap recordBytes

/-- One lease of LEASE_LIST (Table 10-4). The bits the table assigns to nothing are sent as 0 (log entry 36). -/
def leaseBytes (l : Lease) : List Byte :=
  [l.id, portCode l.holder <<< 4 ||| segCode l.seg, (l.target.map addrCode).getD 0] ++ wordBytes l.remaining

/-- The LEASE_LIST payload (Table 10-4). -/
def leaseListPayload (ls : List Lease) : List Byte := BitVec.ofNat 8 ls.length :: ls.flatMap leaseBytes

/-- Phase codes (Table 10-5). -/
def phaseCode : Phase → Nat
  | .idle => 0
  | .mgmtWrite => 1
  | .mgmtRead => 2
  | .claim => 3
  | .opening => 4
  | .fwdWrite => 5
  | .fwdRead => 6
  | .awaitEnd => 7
  | .drain => 8

/-- The cause of a pending release in STATUS (Table 10-5): 0 none, 1 END, 2 ABORT, 3 ADDRESS. -/
def pendingCode : Option Pending → Nat
  | none => 0
  | some (.ending .stop) => 1
  | some (.ending .hold) => 1
  | some (.ending (.stopAfterAbort _)) => 1
  | some (.ending (.abort _)) => 2
  | some (.address _ _) => 3

/-- One byte of STATUS for a port: phase, pending release, QUARANTINED (Table 10-5, bytes 11 to 14). Bit 7, which the table
assigns to nothing, is sent as 0 (log entry 36). -/
def portByte (c : PortCtx) : Byte :=
  BitVec.ofNat 8 (phaseCode c.phase + 16 * pendingCode c.release + bitIf c.quarantined 64)

/-- Condition codes (Table 10-1). -/
def conditionCode : Condition → Nat
  | .available => 0
  | .recovering => 1
  | .faulted => 2

/-- One byte of STATUS for a segment: owner, or 0x07 for none, and condition (Table 10-5, bytes 15 to 20). Bits 3, 6 and 7,
which the table assigns to nothing, are sent as 0 (log entry 36). -/
def segByte (s : State) (sg : Seg) : Byte :=
  let owner : Byte := match (s.seg sg).owner with
    | some o => portCode o.port
    | none => 0x07
  owner ||| BitVec.ofNat 8 (16 * conditionCode (s.condition sg))

/-- The STATUS payload of a port (Table 10-5, 21 bytes). Bit 7 of byte 0, which the table assigns to nothing, is sent as 0
(log entry 36). -/
def statusPayload (s : State) (p : Port) : List Byte :=
  let c := s.port p
  let ids := (s.leasesHeld p).map (·.id)
  [portCode p ||| BitVec.ofNat 8 (bitIf (privileged s.straps p) 4 + bitIf c.quarantined 8 + 16 * c.errCount),
    BitVec.ofNat 8 (s.log p).records.length, c.holdLimit, c.idleLimit] ++
  wordBytes c.mask ++ [BitVec.ofNat 8 ids.length] ++ (ids ++ [0, 0, 0, 0]).take 4 ++
  Port.all.map (fun q => portByte (s.port q)) ++ Seg.all.map (segByte s)

/-- The port mask of an entry as a byte (Table 10-1). -/
def portMaskCode (m : PerPort Bool) : Byte :=
  BitVec.ofNat 8 (bitIf m.u0 1 + bitIf m.u1 2 + bitIf m.u2 4 + bitIf m.u3 8)

/-- An access field as a byte (Table 10-1). -/
def accessCode (a : Access) : Byte := BitVec.ofNat 8 (bitIf a.read 1 + bitIf a.write 2)

/-- The MAP_READ payload (Table 10-2). -/
def mapPayload (count index : Nat) (e : RouteEntry) : List Byte :=
  [BitVec.ofNat 8 count, BitVec.ofNat 8 index, addrCode e.visible, segCode e.seg, addrCode e.downstream,
    portMaskCode e.ports, accessCode e.access]

end Sys2Proof.Machine
end

