-- ==== Sys2Proof/Machine/Ops.lean ====
section
/-! DEFINITION. The operations the commands share, lowest first: entering a record, the port's answers, the lease
table, an SGC's requests, claims and grants, broadcast acquisition, resolution of an address, releases, closes, aborts,
the loss of a segment's condition, and the Management Engine. -/

namespace Sys2Proof.Machine

/-! ### Outcome Log (R145, R146, R149) -/

/-- R146: the newest record has its lost-after flag set. -/
def markTail : List Record → List Record
  | [] => []
  | [r] => [{ r with lostAfter := true }]
  | r :: rest => r :: markTail rest

/-- R145 to R146, R149: a record joins the tail with the next number, or is turned away from a full log. -/
def Log.enter (mask : Word16) (b : RecordBody) (l : Log) : Log :=
  if l.records.length < Config.logDepth then
    { records := l.records ++ [⟨l.nextSeq, false, b⟩], nextSeq := l.nextSeq + 1
      attLow := l.attLow || maskHas mask b.kind }
  else { l with records := markTail l.records }

/-- A record is written into a port's log (R144). -/
def State.writeRecord (s : State) (p : Port) (b : RecordBody) : State :=
  s.modLog p (Log.enter (s.port p).mask b)

/-! ### Record contents (Table 8-2) -/

/-- Why an address or a claim is refused (Table 3-4). -/
inductive RefusalReason
  | accessDenied
  | reservedElsewhere (lease : Byte)
  | segmentUnavailable
  | waitExpired
  deriving DecidableEq, Repr

/-- Table 3-4, Table 6-1. -/
def refusalRecord (why : RefusalReason) (visible : Option Addr) (sg : Option Seg) : RecordBody :=
  match why with
  | .accessDenied => ⟨.accessDenied, visible, sg, none, none, .zero⟩
  | .reservedElsewhere id => ⟨.reservedElsewhere, visible, sg, none, some id, .zero⟩
  | .segmentUnavailable => ⟨.segmentUnavailable, visible, sg, none, none, .zero⟩
  | .waitExpired => ⟨.waitExpired, visible, sg, none, none, .zero⟩

/-- Abort causes (Table 7-1). A switch reset writes no record and is not among them. -/
inductive AbortCause
  | lostAddress
  | lostData
  | stuck (line : BusLine)
  | downstreamError
  | ownerIdle
  | upstreamError
  deriving DecidableEq, Repr

/-- The detail that names a stuck line (Table 8-2). -/
def stuckDetail : BusLine → Detail
  | .scl => .stuckScl
  | .sda => .stuckSda

/-- Tables 7-1 and 7-3. -/
def abortRecord (c : AbortCause) (visible : Option Addr) (sg : Option Seg) (moved : Word16) : RecordBody :=
  match c with
  | .lostAddress => ⟨.abortLost, visible, sg, some moved, none, .addressPhase⟩
  | .lostData => ⟨.abortLost, visible, sg, some moved, none, .dataPhase⟩
  | .stuck line => ⟨.abortStuck, visible, sg, some moved, none, stuckDetail line⟩
  | .downstreamError => ⟨.abortDownstreamError, visible, sg, some moved, none, .zero⟩
  | .ownerIdle => ⟨.abortOwnerIdle, visible, sg, some moved, none, .zero⟩
  | .upstreamError => ⟨.abortUpstreamError, visible, sg, some moved, none, .zero⟩

/-- Table 8-2: the event kinds that name a segment, a lease, or neither. -/
def segmentRecord (k : RecordKind) (sg : Seg) (d : Detail) : RecordBody := ⟨k, none, some sg, none, none, d⟩
def leaseRecord (k : RecordKind) (l : Lease) : RecordBody := ⟨k, none, some l.seg, none, some l.id, .zero⟩
def portRecord (k : RecordKind) (d : Detail) : RecordBody := ⟨k, none, none, none, none, d⟩

/-! ### The port's face and timers (R43, R45, R46, R64) -/

/-- The port gives an acknowledge bit and releases its clock (R46). -/
def PortCtx.answer (a : AckBit) (c : PortCtx) : PortCtx := { c with sclHeld := false, ack := some a, out := none }

def PortCtx.stopHold (c : PortCtx) : PortCtx := { c with hold := { c.hold with running := false } }
def PortCtx.startHold (c : PortCtx) : PortCtx := { c with hold := { c.hold with running := true } }
def PortCtx.stopIdle (c : PortCtx) : PortCtx := { c with idle := { c.idle with running := false } }
def PortCtx.startIdle (c : PortCtx) : PortCtx := { c with idle := { c.idle with running := true } }
def PortCtx.stopTimers (c : PortCtx) : PortCtx := c.stopHold.stopIdle

/-- R45: both limits are taken when an address byte is resolved. -/
def PortCtx.takeLimits (c : PortCtx) : PortCtx :=
  { c with hold := { c.hold with limit := c.holdLimit }, idle := { c.idle with limit := c.idleLimit } }

/-- R67: one more byte moved, saturating at 65535. -/
def PortCtx.countByte (c : PortCtx) : PortCtx :=
  { c with bytesMoved := if c.bytesMoved == 0xFFFF then 0xFFFF else c.bytesMoved + 1 }

/-- Table 7-2: the upstream face of an abort. A byte held at the part's acknowledge is NACKed; the clock and the data
line are released. -/
def PortCtx.abortFace (c : PortCtx) : PortCtx :=
  match c.phase with
  | .opening => c.answer .nack
  | .fwdWrite => if c.sclHeld then c.answer .nack else { c with out := none }
  | .idle | .mgmtWrite | .mgmtRead | .claim | .fwdRead | .awaitEnd | .drain => { c with sclHeld := false, out := none }

/-- R48, R51: a refusal in the address phase NACKs, stops the hold timer, removes the route and gives IDLE. -/
def PortCtx.refused (c : PortCtx) : PortCtx :=
  { (c.answer .nack).stopHold with phase := .idle, route := none, bset := none, withdrawal := none }

/-- A refusal with its record (R48). -/
def State.refuse (s : State) (p : Port) (b : RecordBody) : State :=
  (s.modPort p PortCtx.refused).writeRecord p b

/-! ### Lease Table (R25 to R27, R39) -/

/-- R25: one past an id, from 255 to 1. -/
def idAfter (id : Byte) : Byte := if id == 255 then 1 else id + 1

/-- R25 steps 1 and 2: the first id from the counter on that no lease has; fuel bounds the tries. -/
def freeLeaseId (leases : List Lease) : Nat → Byte → Byte
  | 0, id => id
  | fuel + 1, id => if leases.any (·.id == id) then freeLeaseId leases fuel (idAfter id) else id

/-- A lease is entered in its place by id. -/
def insertLease (l : Lease) : List Lease → List Lease
  | [] => [l]
  | x :: rest => if l.id.toNat < x.id.toNat then l :: x :: rest else x :: insertLease l rest

/-- The table without the lease of an id. -/
def removeLease (id : Byte) (leases : List Lease) : List Lease := leases.filter fun l => l.id != id

/-- The lease of an id. -/
def State.leaseOf (s : State) (id : Byte) : Option Lease := s.leases.find? (·.id == id)

/-- R27: the lease of this id, if it is in the table, is removed and LEASE_EXPIRED is written to its holder's log. -/
def State.expireLease (s : State) (id : Byte) : State :=
  match s.leaseOf id with
  | none => s
  | some l => (s.setLeases (removeLease id s.leases)).writeRecord l.holder (leaseRecord .leaseExpired l)

/-- R135, R136: the flag, one LEASE_REVOKED for each lease held in ascending id, then QUARANTINED. -/
def State.enterQuarantine (s : State) (p : Port) : State :=
  let held := s.leasesHeld p
  let s1 := s.modPort p fun c => { c with quarantined := true, quarantineHeld := false }
  let s2 := s1.setLeases (s1.leases.filter fun l => l.holder != p)
  let s3 := held.foldl (fun t l => t.writeRecord p (leaseRecord .leaseRevoked l)) s2
  s3.writeRecord p (portRecord .quarantined (.revoked held.length))

/-! ### SGC requests (R75 to R82) -/

/-- R77: the settings are loaded at the first START of an ownership. -/
def Sgc.loadSettings (c : Sgc) : Sgc := { c with activeRate := c.pendingRate, activeStuck := c.pendingStuck }

/-- R76, R77: the START is formed; the settings are loaded unless an attempt of this address phase was lost before. -/
def Sgc.formStart (c : Sgc) : Sgc :=
  let c := if c.retry == 0 then c.loadSettings else c
  { c with line := .address, busBusy := false, formingRs := false }

/-- R76: a begin request, with whether another party holds a line of the segment low. -/
def Sgc.beginAddress (low : Bool) (d : Dest) (dir : Dir) (c : Sgc) : Sgc :=
  let taken := { c with retry := 0, inHand := some ⟨d, dir⟩ }
  match c.line with
  | .idle => if low then { taken with line := .busWait, busBusy := false } else taken.formStart
  | .foreign => { taken with line := .busWait, busBusy := true }
  | .busWait | .address | .write | .read | .ackHold | .parked | .stopping | .recovery | .faulted => c

/-- R81: a repeated start request, from PARKED. The line state is ADDRESS from the request on, while the RS is still being
formed, too (log entry 35). -/
def Sgc.repeatStart (d : Dest) (dir : Dir) (c : Sgc) : Sgc :=
  if c.line == .parked then
    { c with line := .address, inHand := some ⟨d, dir⟩, retry := 0, dataDir := none, formingRs := true, nackOut := false }
  else c

/-- R79: a data byte request, from PARKED with the data phase direction write. -/
def Sgc.sendByte (b : Byte) (c : Sgc) : Sgc :=
  if c.line == .parked && c.dataDir == some .write then { c with line := .write, txByte := some b } else c

/-- R80: an acknowledge request, from ACK_HOLD. -/
def Sgc.giveAck (a : AckBit) (c : Sgc) : Sgc :=
  match c.line, a with
  | .ackHold, .ack => { c with line := .read }
  | .ackHold, .nack => { c with line := .parked, dataDir := some .read, nackOut := true }
  | _, _ => c

/-- R82: what a release clears in the SGC. -/
def Sgc.released (c : Sgc) : Sgc :=
  { c with retry := 0, dataDir := none, inHand := none, closing := false, formingRs := false, nackOut := false
           txByte := none }

def State.beginOn (s : State) (sg : Seg) (d : Dest) (dir : Dir) : State :=
  s.modSgc sg (Sgc.beginAddress (s.linesLow.get sg) d dir)

/-! ### Claims and grants (R8, R10, R11, R50, R115, R119) -/

/-- What the Arbiter answers a claim on arrival (Table 1-2). -/
inductive Arrival
  | refused (why : RefusalReason)
  | granted
  | queued
  deriving DecidableEq, Repr

/-- R8, Table 1-2. -/
def State.arrival (s : State) (p : Port) (sg : Seg) (d : Dest) : Arrival :=
  match s.coveringLease p sg d with
  | some l => .refused (.reservedElsewhere l.id)
  | none =>
    if s.condition sg != .available then .refused .segmentUnavailable
    else match (s.seg sg).owner with
      | none => .granted
      | some _ => .queued

/-- R7: a claim joins at the tail. -/
def State.enqueueClaim (s : State) (p : Port) (sg : Seg) (d : Dest) : State :=
  s.modSeg sg fun r => { r with waitList := r.waitList ++ [⟨p, d⟩] }

/-- R10: the owner becomes the claimant's port, with the claim's kind. -/
def State.setOwner (s : State) (p : Port) (sg : Seg) (d : Dest) : State :=
  s.modSeg sg fun r => { r with owner := some ⟨p, d.kind⟩ }

/-- R50: a granted SINGLE claim opens the route in the port's context. R51: where a withdrawal is on its way, the SGC is
not asked to begin. -/
def State.openSingle (s : State) (p : Port) : State :=
  let s1 := s.modPort p fun c => { c with phase := .opening }
  match (s.port p).withdrawal, (s.port p).route with
  | none, some r => s1.beginOn r.seg (.device r.downstream) r.dir
  | none, none => s1
  | some _, _ => s1

/-- A set with one member's mark changed (R113). -/
def setMark (set : List Member) (sg : Seg) (m : Mark) : List Member :=
  set.map fun x => if x.seg == sg then { x with mark := m } else x

def State.markMember (s : State) (p : Port) (sg : Seg) (m : Mark) : State :=
  s.modPort p fun c => { c with bset := c.bset.map fun set => setMark set sg m }

/-- R115 to R117: a segment of a broadcast set is dropped with one refusal record. -/
def State.dropMember (s : State) (p : Port) (sg : Seg) (why : RefusalReason) : State :=
  ((s.markMember p sg .dropped).modPort p fun c => { c with refusalLeft := true }).writeRecord p
    (refusalRecord why (some 0) (some sg))

/-- R119: no segment is PENDING. With none OWNED the address is NACKed; else every OWNED segment begins. -/
def State.acquisitionEnd (s : State) (p : Port) : State :=
  match s.ownedMembers p with
  | [] => s.modPort p PortCtx.refused
  | owned =>
    owned.foldl (fun t sg => t.beginOn sg .generalCall .write) (s.modPort p fun c => { c with phase := .opening })

/-- R115: the port claims its PENDING segments in ascending order, one at a time, until one has to wait. -/
def State.acquire (p : Port) : List Seg → State → State
  | [], s => s.acquisitionEnd p
  | sg :: rest, s =>
    if s.markOf p sg == some .pending then
      match s.arrival p sg .generalCall with
      | .refused why => State.acquire p rest (s.dropMember p sg why)
      | .granted => State.acquire p rest ((s.setOwner p sg .generalCall).markMember p sg .owned)
      | .queued => s.enqueueClaim p sg .generalCall
    else State.acquire p rest s

/-- R115: the port makes its next claim once the last one has been answered. R118: a port whose hold limit has run out,
its withdrawal on its way, makes no more. -/
def State.acquireNext (s : State) (p : Port) : State :=
  match (s.port p).withdrawal with
  | none => State.acquire p Seg.all s
  | some _ => s

/-- R10, R11: the head claim, if there is one, leaves the list and is granted. -/
def State.grantHead (s : State) (sg : Seg) : State :=
  match (s.seg sg).waitList with
  | [] => s
  | c :: rest =>
    let s1 := (s.modSeg sg fun r => { r with waitList := rest }).setOwner c.port sg c.dest
    match c.dest with
    | .device _ => s1.openSingle c.port
    | .generalCall => (s1.markMember c.port sg .owned).acquireNext c.port

/-- R49: the route is copied, bytes moved is cleared, the hold timer starts, and the claim is handed to the Arbiter. -/
def State.claimSingle (s : State) (p : Port) (r : Route) : State :=
  let s1 := s.modPort p fun c =>
    { c.startHold with phase := .claim, route := some r, bset := none, bytesMoved := 0, abortReported := false
                       refusalLeft := false, withdrawal := none, sclHeld := true }
  match s1.arrival p r.seg (.device r.downstream) with
  | .refused why => s1.refuse p (refusalRecord why (some r.visible) (some r.seg))
  | .granted => (s1.setOwner p r.seg (.device r.downstream)).openSingle p
  | .queued => s1.enqueueClaim p r.seg (.device r.downstream)

/-! ### Resolution of an address byte (R47, R102 to R105, R113, R114) -/

/-- Answers of the Route Map (Table 5-2). -/
inductive Lookup
  | noEntry
  | portExcluded
  | directionDenied (sg : Seg)
  | route (sg : Seg) (downstream : Addr)
  deriving DecidableEq, Repr

/-- R105: the access field against a direction bit. -/
def Access.allows (a : Access) : Dir → Bool
  | .write => a.write
  | .read => a.read

/-- R102, Table 5-2. -/
def lookup (m : List RouteEntry) (p : Port) (b : AddrByte) : Lookup :=
  match m.find? (·.visible == b.addr) with
  | none => .noEntry
  | some e =>
    if !e.ports.get p then .portExcluded
    else if !e.access.allows b.dir then .directionDenied e.seg
    else .route e.seg e.downstream

/-- What the steps of Table 3-3 decide. -/
inductive Resolution
  | silentNack
  | broadcast
  | management (dir : Dir)
  | refused (why : RefusalReason) (sg : Seg)
  | route (r : Route)
  deriving DecidableEq, Repr

/-- R47, steps 1 to 7 of Table 3-3, for a port that is or is not QUARANTINED. -/
def State.resolution (s : State) (p : Port) (b : AddrByte) : Resolution :=
  if (s.port p).quarantined && b.addr != mgmtAddress s.straps then .silentNack
  else if b.addr == 0 then
    match b.dir with
    | .write => .broadcast
    | .read => .silentNack
  else if b.addr == mgmtAddress s.straps then .management b.dir
  else
    match lookup s.map p b with
    | .noEntry => .silentNack
    | .portExcluded => .silentNack
    | .directionDenied sg => .refused .accessDenied sg
    | .route sg d =>
      match s.coveringLease p sg (.device d) with
      | some l => .refused (.reservedElsewhere l.id) sg
      | none => if s.condition sg != .available then .refused .segmentUnavailable sg else .route ⟨b.addr, sg, d, b.dir⟩

/-- The segments a broadcast may name before leases are asked for (R104, R114). -/
def State.broadcastOpen (s : State) (sg : Seg) : Bool := (s.sgc sg).broadcastFlag && s.condition sg == .available

/-- R104: the broadcast set, every member PENDING. -/
def State.broadcastMembers (s : State) (p : Port) : List Member :=
  (Seg.all.filter fun sg => s.broadcastOpen sg && (s.coveringLease p sg .generalCall).isNone).map fun sg => ⟨sg, .pending⟩

/-- R114: the segments left out only because of a lease, with the covering lease's id. -/
def State.broadcastExcluded (s : State) (p : Port) : List (Seg × Byte) :=
  Seg.all.filterMap fun sg =>
    if s.broadcastOpen sg then (s.coveringLease p sg .generalCall).map fun l => (sg, l.id) else none

/-- R113, R114: a broadcast is formed and its acquisition begins. -/
def State.formBroadcast (s : State) (p : Port) : State :=
  let s1 := (s.broadcastExcluded p).foldl
    (fun t x => t.writeRecord p (refusalRecord (.reservedElsewhere x.2) (some 0) (some x.1))) s
  match s.broadcastMembers p with
  | [] => s1.modPort p PortCtx.refused
  | members =>
    State.acquire p Seg.all (s1.modPort p fun c =>
      { c.startHold with phase := .claim, route := none, bset := some members, bytesMoved := 0, abortReported := false
                         refusalLeft := !(s.broadcastExcluded p).isEmpty, withdrawal := none
                         sclHeld := true })

/-- The byte of the reply at a position; none past the check byte, where the line is released (R160). -/
def replyByte (r : Reply) (n : Nat) : Option Byte := r.bytes[n]?

/-- R47, R155, R160: the management address is ACKed and its phase entered. -/
def PortCtx.enterManagement (dir : Dir) (c : PortCtx) : PortCtx :=
  match dir with
  | .write => { c.answer .ack with phase := .mgmtWrite, message := ⟨[], false⟩ }
  | .read => { c.answer .ack with phase := .mgmtRead, readPos := some 0, out := replyByte c.reply 0 }

/-- R47: an address byte is resolved from step 1, as from IDLE. -/
def State.resolve (s0 : State) (p : Port) (b : AddrByte) : State :=
  let s := s0.modPort p fun c => { c.takeLimits with heldAddr := none, readPos := none, out := none }
  match s.resolution p b with
  | .silentNack => s.modPort p PortCtx.refused
  | .broadcast => s.formBroadcast p
  | .management dir => s.modPort p (PortCtx.enterManagement dir)
  | .refused why sg => s.refuse p (refusalRecord why (some b.addr) (some sg))
  | .route r => s.claimSingle p r

/-! ### Releases (R9, R10, R44, R82, R130, R135) -/

/-- R130, Table 7-4: whether a cause that comes with a release adds a record; recorded says that the transaction has
left a refusal or abort record (log entry 11). -/
def causeRecorded (recorded : Bool) : Option Pending → Bool
  | some (.ending .stop) => !recorded
  | some (.ending .hold) => false
  | some (.ending (.stopAfterAbort _)) => false
  | some (.ending (.abort _)) => false
  | some (.address _ none) => !recorded
  | some (.address _ (some .stop)) => !recorded
  | some (.address _ (some .hold)) => false
  | some (.address _ (some (.stopAfterAbort _))) => false
  | some (.address _ (some (.abort _))) => false
  | none => !recorded

/-- The visible address a port's records carry: the route's, or 0x00 for a broadcast (R125, R129). -/
def PortCtx.visible (c : PortCtx) : Option Addr :=
  match c.bset with
  | some _ => some 0
  | none => c.route.map (·.visible)

/-- R130: a cause handed over with a release is an abort reported, and may add a record. -/
def State.takeCause (s : State) (p : Port) (sg : Seg) (cause : Option AbortCause) : State :=
  match cause with
  | none => s
  | some c =>
    let ctx := s.port p
    let s1 := if causeRecorded (ctx.abortReported || ctx.refusalLeft) ctx.release then
        s.writeRecord p (abortRecord c ctx.visible (some sg) ctx.bytesMoved) else s
    s1.modPort p fun x => { x with abortReported := true }

/-- R68: whether the release was taken for an END that the master's STOP set. -/
def endedByStop : Pending → Bool
  | .ending .stop => true
  | .address _ (some .stop) => true
  | .ending .hold => false
  | .ending (.stopAfterAbort _) => false
  | .ending (.abort _) => false
  | .address _ none => false
  | .address _ (some .hold) => false
  | .address _ (some (.stopAfterAbort _)) => false
  | .address _ (some (.abort _)) => false

/-- R44: the port acts on its pending cause. -/
def State.actOnPending (s : State) (p : Port) : Pending → State
  | .ending .stop => s.modPort p fun c => { c with phase := .idle }
  | .ending .hold => s.modPort p fun c => { c with phase := .idle }
  | .ending (.stopAfterAbort _) => s.modPort p fun c => { c with phase := .idle }
  | .ending (.abort _) => s.modPort p fun c => { c with phase := .drain }
  | .address b _ => s.resolve p b

/-- R44, R68, R135: the last release of a port has taken effect. The route and set are removed, the error count is
cleared after a clean STOP, a held quarantine entry is taken, and the port acts on its pending cause. -/
def State.finishRelease (s : State) (p : Port) (pend : Pending) : State :=
  let s1 := s.modPort p fun c =>
    { c.stopTimers with route := none, bset := none, release := none
                        errCount := if endedByStop pend && !c.abortReported then 0 else c.errCount }
  let s2 := if (s1.port p).quarantineHeld then s1.enterQuarantine p else s1
  s2.actOnPending p pend

/-- R44: with a release pending and no segment left to the port, the pending cause is acted on. -/
def State.portReleased (s : State) (p : Port) : State :=
  match (s.port p).release with
  | some pend => if (s.ownedBy p).isEmpty then s.finishRelease p pend else s
  | none => s

/-- R9, R10, R82: the release of a segment takes effect, with the cause that came with it if there is one. -/
def State.releaseSeg (s : State) (sg : Seg) (cause : Option AbortCause) : State :=
  match (s.seg sg).owner with
  | none => s
  | some o =>
    let s1 := (s.modSgc sg Sgc.released).takeCause o.port sg cause
    let s2 := s1.modSeg sg fun r => { r with owner := none }
    let s3 := if s2.condition sg == .available then s2.grantHead sg else s2
    s3.portReleased o.port

/-- R82, Table 4-4: a close request. -/
def State.closeSeg (s : State) (sg : Seg) : State :=
  match (s.sgc sg).line with
  | .idle | .foreign => s.releaseSeg sg none
  | .busWait =>
    (s.modSgc sg fun c => { c with line := if c.busBusy then .foreign else .idle }).releaseSeg sg none
  | .address | .write | .read => s.modSgc sg fun c => { c with closing := true }
  | .ackHold => s.modSgc sg fun c => { c with line := .stopping, closing := true, nackOut := true }
  | .parked => s.modSgc sg fun c => { c with line := .stopping, closing := true }
  | .stopping | .recovery | .faulted => s

/-- The port gives up every segment it owns; with none to give up the pending cause is acted on at once (R44, R123). A
broadcast member released before the others keeps its mark OWNED until the last release removes the set (log entry 31).
Releases that take effect at once do so in ascending order of segment, which the manual leaves open (log entry 34). -/
def State.closeAll (s : State) (p : Port) : State :=
  match s.ownedBy p with
  | [] => s.portReleased p
  | owned => owned.foldl State.closeSeg s

/-! ### Aborts (R126 to R129, R120, R122, R123) -/

/-- R126: the timers stop, the face of Table 7-2 is given, ABORT becomes pending and an abort is reported. -/
def PortCtx.aborted (setter : AbortSetter) (c : PortCtx) : PortCtx :=
  { c.abortFace.stopTimers with phase := .awaitEnd, release := some (.ending (.abort setter)), abortReported := true }

/-- R126, R127, R129: an abort of a whole transaction; a broadcast's record names no segment. -/
def State.abortPort (s : State) (p : Port) (cause : AbortCause) : State :=
  let c := s.port p
  let sg := match c.bset with
    | some _ => none
    | none => c.route.map (·.seg)
  (s.modPort p (PortCtx.aborted .cause)).writeRecord p (abortRecord cause c.visible sg c.bytesMoved)

/-- R120, R122, R124: an abort of one segment of a broadcast. -/
def State.abortMember (s : State) (p : Port) (sg : Seg) (cause : AbortCause) : State :=
  let c := s.port p
  (s.modPort p fun x => { x with bset := x.bset.map (fun set => setMark set sg .dropped), abortReported := true }).writeRecord p
    (abortRecord cause (some 0) (some sg) c.bytesMoved)

/-- An abort cause handed to the owner's UPC as a result (R52, R55, R59). -/
def State.handAbort (s : State) (o : Owner) (sg : Seg) (cause : AbortCause) : State :=
  match o.kind with
  | .single => s.abortPort o.port cause
  | .broadcast => s.abortMember o.port sg cause

/-- R120, R122: whether every segment still OWNED has given its result. -/
def State.resultsIn (s : State) (p : Port) : Bool := (s.ownedMembers p).all fun sg => (s.sgc sg).line == .parked

/-- R120, R122, R123: once every result of a broadcast is in, the upstream acknowledge is given. -/
def State.collect (s : State) (p : Port) : State :=
  let c := s.port p
  if c.bset.isSome && c.release.isNone && s.resultsIn p then
    match c.phase with
    | .opening =>
      if (s.ownedMembers p).isEmpty then s.modPort p fun x => { (x.answer .nack).stopHold with phase := .awaitEnd }
      else s.modPort p fun x => { (x.answer .ack).stopHold.startIdle with phase := .fwdWrite }
    | .fwdWrite =>
      if !c.sclHeld then s
      else if (s.ownedMembers p).isEmpty then s.modPort p fun x => { x.answer .nack with phase := .awaitEnd }
      else s.modPort p fun x => (x.answer .ack).startIdle.countByte
    | .idle | .mgmtWrite | .mgmtRead | .claim | .fwdRead | .awaitEnd | .drain => s
  else s

/-- R120, R122: a segment whose targets gave NACK drops out and is closed, with no record. -/
def State.dropNacked (s : State) (p : Port) (sg : Seg) : State :=
  ((s.markMember p sg .dropped).closeSeg sg).collect p

/-- R85, R86: a cause that ends the SGC's work at once with no STOP. A close in progress ends as its release, with the
cause; otherwise the cause is the owner's result. -/
def State.endWithCause (s : State) (sg : Seg) (cause : AbortCause) (f : Sgc → Sgc) : State :=
  match (s.seg sg).owner with
  | none => s
  | some o =>
    if (s.sgc sg).closing then ((s.modSgc sg f).releaseSeg sg (some cause)).collect o.port
    else (((s.handAbort o sg cause).modSgc sg f).releaseSeg sg none).collect o.port

/-! ### The condition leaves AVAILABLE; leases handed over (R13, R17, R116, R117) -/

/-- R51, R115: a waiting claim already taken from its list is refused. -/
def State.refuseClaim (why : RefusalReason) (sg : Seg) (s : State) (c : Claim) : State :=
  match c.dest with
  | .device _ => s.refuse c.port (refusalRecord why ((s.port c.port).route.map (·.visible)) (some sg))
  | .generalCall => (s.dropMember c.port sg why).acquireNext c.port

/-- R116, R117: a port whose set holds the segment PENDING drops it. -/
def State.dropIfPending (why : RefusalReason) (sg : Seg) (s : State) (p : Port) : State :=
  if s.markOf p sg == some .pending then s.dropMember p sg why else s

/-- R13, R116: every waiting claim is refused in list order, then every set that holds the segment PENDING drops it. -/
def State.conditionLeft (s : State) (sg : Seg) : State :=
  let claims := (s.seg sg).waitList
  let s1 := s.modSeg sg fun r => { r with waitList := [] }
  let s2 := claims.foldl (State.refuseClaim .segmentUnavailable sg) s1
  Port.all.foldl (State.dropIfPending .segmentUnavailable sg) s2

/-- R17, R31, R117: the hand-over of a granted lease. -/
def State.leaseHandOver (s : State) (l : Lease) : State :=
  let covered := fun c : Claim => c.port != l.holder && l.covers l.seg c.dest
  let claims := (s.seg l.seg).waitList.filter covered
  let s1 := s.modSeg l.seg fun r => { r with waitList := r.waitList.filter fun c => !covered c }
  let s2 := claims.foldl (State.refuseClaim (.reservedElsewhere l.id) l.seg) s1
  (Port.all.filter fun p => p != l.holder).foldl (State.dropIfPending (.reservedElsewhere l.id) l.seg) s2

/-- R15: a withdrawal removes the port's claim from the segment's list. -/
def State.withdraw (s : State) (p : Port) (sg : Seg) : State :=
  s.modSeg sg fun r => { r with waitList := r.waitList.filter fun c => c.port != p }

/-! ### Stuck lines and recovery (R89, R90) -/

/-- R89: stuck detection. A close in progress ends as its release with the cause; otherwise the owner is aborted first. -/
def State.stuckDetected (s : State) (sg : Seg) (line : BusLine) : State :=
  match (s.seg sg).owner with
  | none => s
  | some o =>
    let closing := (s.sgc sg).closing
    let s1 := if closing then s else s.handAbort o sg (.stuck line)
    let s2 := s1.modSgc sg fun c => { c with origin := some (.automatic o.port), line := .recovery }
    let s3 := s2.conditionLeft sg
    (s3.releaseSeg sg (if closing then some (.stuck line) else none)).collect o.port

/-- How a recovery sequence ends (Table 4-6). -/
inductive RecoveryEnd
  | success
  | failed (line : BusLine)
  deriving DecidableEq, Repr

/-- Table 4-6, step 5: the STOP. -/
def recoveryStop (seen : RecoveryLines) : RecoveryEnd :=
  if !seen.stopClock then .failed .scl else if !seen.stopData then .failed .sda else .success

/-- Table 4-6, step 4, with the number of pulses that may still be given; none when the lines seen end too soon. -/
def recoveryPulse (seen : RecoveryLines) : Nat → List RecoveryPulse → Option RecoveryEnd
  | 0, _ => some (.failed .sda)
  | _ + 1, [] => none
  | n + 1, x :: rest =>
    if !x.clockHigh then some (.failed .scl)
    else if x.dataHigh then some (recoveryStop seen)
    else recoveryPulse seen n rest

/-- R90, Table 4-6: the recovery sequence over what the lines do. -/
def recoverySequence (seen : RecoveryLines) : Option RecoveryEnd :=
  if !seen.clockFreed then some (.failed .scl)
  else if seen.dataHigh then some (recoveryStop seen)
  else recoveryPulse seen Config.recoveryPulses seen.pulses

/-! ### The Management Engine (R156 to R159) -/

/-- R156: the end of a management write. A message with bytes is handed to the Engine; after an RS with none the phase
stays until the address byte (R46). -/
def PortCtx.endWrite (seen : BusCondition) (c : PortCtx) : PortCtx :=
  match c.message.bytes, seen with
  | [], .stop => { c with phase := .idle }
  | [], .start => c
  | _ :: _, _ => { c with phase := .idle, handed := some c.message, message := ⟨[], false⟩ }

/-- R157: the reply is written; then an address byte held for it is resolved. -/
def State.finishCommand (s : State) (p : Port) (r : Reply) : State :=
  let s1 := s.modPort p fun c => { c with reply := r, handed := none }
  match (s1.port p).heldAddr with
  | some b => s1.resolve p b
  | none => s1

/-- What a command's own steps give: the state after it and the reply (Table 9-4, steps 6 to 8). -/
structure Answered where
  state : State
  reply : Reply

/-- A command refused with an empty payload, everything left as it was (R158). -/
def refusedWith (s : State) (st : Status) : Answered := ⟨s, Reply.bare st⟩

/-- R158, Table 9-4, steps 4 and 5, before a command's own steps. -/
def State.checked (s : State) (p : Port) (id : CommandId) (args : List Byte)
    (body : List Byte → State → Answered) : Answered :=
  if args.length != argumentCount id then refusedWith s .badLength
  else if needsPrivilege id && !privileged s.straps p then refusedWith s .denied
  else if closedToQuarantined id && (s.port p).quarantined then refusedWith s .denied
  else body args s

/-- R157, R158: the Engine takes the message a port has handed over, if it names this command. -/
def State.takeCommand (s : State) (p : Port) (id : CommandId) (body : List Byte → State → Answered) : State :=
  match (s.port p).handed with
  | none => s
  | some m =>
    match m.parse with
    | .refused _ => s
    | .command c args =>
      if c == id then
        let a := s.checked p id args body
        a.state.finishCommand p a.reply
      else s

end Sys2Proof.Machine
end

