-- ==== Sys2Proof/Machine/LeaseCommands.lean ====
section
/-! DEFINITION. The lease commands: RESERVE, RENEW, RELEASE, REVOKE, LEASE_LIST. -/

namespace Sys2Proof.Machine

/-! ### RESERVE (R25, R31, R33, R34) -/

/-- The leases that overlap a request, in ascending id (R23). -/
def State.overlapping (s : State) (sg : Seg) (target : Option Addr) : List Lease :=
  s.leases.filter fun l => l.overlaps sg target

/-- R34: the lease that a granted RESERVE creates. -/
def State.newLease (s : State) (p : Port) (sg : Seg) (target : Option Addr) (d : Word16) : Lease :=
  ⟨freeLeaseId s.leases 255 s.nextLeaseId, p, sg, target, d, false⟩

/-- R25, R31, R34: the lease is entered, the counter advances, and the lease is handed over. -/
def State.grantLease (s : State) (l : Lease) : State :=
  ({ s with leases := insertLease l s.leases, nextLeaseId := idAfter l.id }).leaseHandOver l

/-- Table 2-3, steps 3 to 5, and the grant. -/
def State.reserve (s : State) (p : Port) (sg : Seg) (target : Option Addr) (d : Word16) : Answered :=
  match (s.overlapping sg target).find? fun l => l.holder != p with
  | some l => ⟨s, ⟨.conflict, [l.id, portCode l.holder]⟩⟩
  | none =>
    match s.overlapping sg target with
    | l :: _ => ⟨s, ⟨.alreadyHeld, [l.id]⟩⟩
    | [] =>
      if s.leases.length < Config.leaseCapacity && (s.leasesHeld p).length < Config.leasesPerPort then
        ⟨s.grantLease (s.newLease p sg target d), ⟨.ok, [(s.newLease p sg target d).id]⟩⟩
      else refusedWith s .tableFull

def reserveBody (p : Port) (args : List Byte) (s : State) : Answered :=
  match args with
  | [b, t, d1, d0] =>
    match segOfByte b, targetOfByte t, durationOf d1 d0 with
    | some sg, some target, some d => s.reserve p sg target d
    | _, _, _ => refusedWith s .badArgument
  | _ => refusedWith s .badLength

/-- RESERVE. -/
def execReserve (p : Port) (low : List Seg) (s : State) : Host.Outcome State Fault Refusal :=
  .next ((s.sampleLines low).takeCommand p .reserve (reserveBody p))

/-! ### RENEW (R35; R28: an expiry that was due is not taken after it) -/

def renewBody (p : Port) (args : List Byte) (s : State) : Answered :=
  match args with
  | [b, d1, d0] =>
    match leaseIdOfByte b, durationOf d1 d0 with
    | some id, some d =>
      match s.leaseOf id with
      | some l =>
        if l.holder == p then
          ⟨s.setLeases (s.leases.map fun x => if x.id == id then { x with remaining := d, due := false } else x), ⟨.ok, [id]⟩⟩
        else refusedWith s .notFound
      | none => refusedWith s .notFound
    | _, _ => refusedWith s .badArgument
  | _ => refusedWith s .badLength

/-- RENEW. -/
def execRenew (p : Port) (low : List Seg) (s : State) : Host.Outcome State Fault Refusal :=
  .next ((s.sampleLines low).takeCommand p .renew (renewBody p))

/-! ### RELEASE (R36) -/

def releaseBody (p : Port) (args : List Byte) (s : State) : Answered :=
  match args with
  | [b] =>
    match leaseIdOfByte b with
    | none => refusedWith s .badArgument
    | some id =>
      match s.leaseOf id with
      | some l => if l.holder == p then ⟨s.setLeases (removeLease id s.leases), Reply.bare .ok⟩ else refusedWith s .notFound
      | none => refusedWith s .notFound
  | _ => refusedWith s .badLength

/-- RELEASE. -/
def execRelease (p : Port) (low : List Seg) (s : State) : Host.Outcome State Fault Refusal :=
  .next ((s.sampleLines low).takeCommand p .release (releaseBody p))

/-! ### REVOKE (R37) -/

def revokeBody (args : List Byte) (s : State) : Answered :=
  match args with
  | [b] =>
    match leaseIdOfByte b with
    | none => refusedWith s .badArgument
    | some id =>
      match s.leaseOf id with
      | some l =>
        ⟨(s.setLeases (removeLease id s.leases)).writeRecord l.holder (leaseRecord .leaseRevoked l),
          ⟨.ok, [id, portCode l.holder]⟩⟩
      | none => refusedWith s .notFound
  | _ => refusedWith s .badLength

/-- REVOKE. -/
def execRevoke (p : Port) (low : List Seg) (s : State) : Host.Outcome State Fault Refusal :=
  .next ((s.sampleLines low).takeCommand p .revoke revokeBody)

/-! ### LEASE_LIST (R38) -/

def leaseListBody (_ : List Byte) (s : State) : Answered := ⟨s, ⟨.ok, leaseListPayload s.leases⟩⟩

/-- LEASE_LIST. -/
def execLeaseList (p : Port) (low : List Seg) (s : State) : Host.Outcome State Fault Refusal :=
  .next ((s.sampleLines low).takeCommand p .leaseList leaseListBody)

end Sys2Proof.Machine
end

