-- ==== Sys2Proof/Machine/MapCommands.lean ====
section
/-! DEFINITION. The map commands: MAP_SET, MAP_CLEAR, MAP_READ. -/

namespace Sys2Proof.Machine

/-! ### MAP_SET (R108, R109) -/

/-- R100: an entry takes the place its visible address calls for; an entry with that address is replaced. -/
def putEntry (e : RouteEntry) : List RouteEntry → List RouteEntry
  | [] => [e]
  | x :: rest =>
    if e.visible.toNat < x.visible.toNat then e :: x :: rest
    else if e.visible == x.visible then e :: rest
    else x :: putEntry e rest

/-- Whether an entry has the visible address. -/
def hasEntry (m : List RouteEntry) (a : Addr) : Bool := m.any (·.visible == a)

/-- The index of a visible address: how many entries lie below it (R100). -/
def indexOfVisible (m : List RouteEntry) (a : Addr) : Nat := (m.filter fun e => e.visible.toNat < a.toNat).length

def State.mapSet (s : State) (e : RouteEntry) : Answered :=
  let present := hasEntry s.map e.visible
  if !present && Config.routeCapacity ≤ s.map.length then refusedWith s .tableFull
  else
    ⟨s.setMap (putEntry e s.map),
      ⟨.ok, [BitVec.ofNat 8 (indexOfVisible s.map e.visible), if present then 1 else 0]⟩⟩

def mapSetBody (args : List Byte) (s : State) : Answered :=
  match args with
  | [v, b, d, m, a] =>
    match addrOfByte v, segOfByte b, addrOfByte d, portMaskOf m, accessOf a with
    | some visible, some sg, some downstream, some ports, some access =>
      if visible == mgmtAddress s.straps then refusedWith s .badArgument
      else s.mapSet ⟨visible, sg, downstream, ports, access⟩
    | _, _, _, _, _ => refusedWith s .badArgument
  | _ => refusedWith s .badLength

/-- MAP_SET. -/
def execMapSet (p : Port) (low : List Seg) (s : State) : Host.Outcome State Fault Refusal :=
  .next ((s.sampleLines low).takeCommand p .mapSet mapSetBody)

/-! ### MAP_CLEAR (R110) -/

def mapClearBody (args : List Byte) (s : State) : Answered :=
  match args with
  | [v] =>
    match addrOfByte v with
    | none => refusedWith s .badArgument
    | some visible =>
      if hasEntry s.map visible then ⟨s.setMap (s.map.filter fun e => e.visible != visible), Reply.bare .ok⟩
      else refusedWith s .notFound
  | _ => refusedWith s .badLength

/-- MAP_CLEAR. -/
def execMapClear (p : Port) (low : List Seg) (s : State) : Host.Outcome State Fault Refusal :=
  .next ((s.sampleLines low).takeCommand p .mapClear mapClearBody)

/-! ### MAP_READ (R111) -/

def mapReadBody (args : List Byte) (s : State) : Answered :=
  match args with
  | [b] =>
    match indexOf b with
    | none => refusedWith s .badArgument
    | some n =>
      match s.map[n]? with
      | some e => ⟨s, ⟨.ok, mapPayload s.map.length n e⟩⟩
      | none => refusedWith s .notFound
  | _ => refusedWith s .badLength

/-- MAP_READ. -/
def execMapRead (p : Port) (low : List Seg) (s : State) : Host.Outcome State Fault Refusal :=
  .next ((s.sampleLines low).takeCommand p .mapRead mapReadBody)

end Sys2Proof.Machine
end

