-- ==== Sys2Proof/Machine/PortCommands.lean ====
section
/-! DEFINITION. UNKNOWN_COMMAND and the commands of the ports: STATUS, PORT_SET, SWITCH_RESET, PORT_RESTORE, LOG_READ. -/

namespace Sys2Proof.Machine

/-! ### UNKNOWN_COMMAND (R158, steps 1 to 3) -/

/-- A message that fails a check before its command is known is answered with that check's status. -/
def State.unknownCommand (s : State) (p : Port) : State :=
  match (s.port p).handed with
  | none => s
  | some m =>
    match m.parse with
    | .refused st => s.finishCommand p (Reply.bare st)
    | .command _ _ => s

/-- UNKNOWN_COMMAND. -/
def execUnknownCommand (p : Port) (low : List Seg) (s : State) : Host.Outcome State Fault Refusal :=
  .next ((s.sampleLines low).unknownCommand p)

/-! ### STATUS (R161) -/

def statusBody (p : Port) (_ : List Byte) (s : State) : Answered := ⟨s, ⟨.ok, statusPayload s p⟩⟩

/-- STATUS. -/
def execStatus (p : Port) (low : List Seg) (s : State) : Host.Outcome State Fault Refusal :=
  .next ((s.sampleLines low).takeCommand p .status (statusBody p))

/-! ### PORT_SET (R162, R150) -/

/-- R149, R150: the attention line is set from the records held. -/
def State.setAttention (s : State) (p : Port) : State :=
  s.modLog p fun l => { l with attLow := attentionDue (s.port p).mask l.records }

def portSetBody (p : Port) (args : List Byte) (s : State) : Answered :=
  match args with
  | [h, i, m1, m0] =>
    match portLimitOf h, portLimitOf i, maskOf m1 m0 with
    | some hold, some idle, some mask =>
      ⟨(s.modPort p fun c => { c with holdLimit := hold, idleLimit := idle, mask := mask }).setAttention p,
        ⟨.ok, [hold, idle] ++ wordBytes mask⟩⟩
    | _, _, _ => refusedWith s .badArgument
  | _ => refusedWith s .badLength

/-- PORT_SET. -/
def execPortSet (p : Port) (low : List Seg) (s : State) : Host.Outcome State Fault Refusal :=
  .next ((s.sampleLines low).takeCommand p .portSet (portSetBody p))

/-! ### SWITCH_RESET (R20, R41, R70, R98, R140, R152, R163) -/

/-- R20: every claim leaves every wait list. -/
def State.removeClaims (s : State) : State := { s with segs := s.segs.mapAll fun _ r => { r with waitList := [] } }

/-- R70, Table 3-7: one port's part, by its phase. A read byte that is cut counts if its eighth bit has been clocked
(R67). -/
def PortCtx.switchReset (clocked : Bool) (c0 : PortCtx) : PortCtx :=
  let c := { c0 with quarantined := false, quarantineHeld := false, errCount := 0, withdrawal := none }
  match c.phase, c.release, c.bset with
  | .idle, _, _ => c
  | .mgmtWrite, _, _ => c
  | .mgmtRead, _, _ => c
  | .drain, _, _ => c
  | .claim, _, none => { (c.answer .nack).stopHold with phase := .drain, route := none }
  | .claim, _, some _ =>
    { (c.answer .nack).stopHold with phase := .awaitEnd, route := none, release := some (.ending (.abort .switchReset)) }
  | .opening, none, _ => c.aborted .switchReset
  | .fwdWrite, none, _ => c.aborted .switchReset
  | .fwdRead, none, _ => (if clocked && !c.sclHeld then c.countByte else c).aborted .switchReset
  | .awaitEnd, none, _ => c.aborted .switchReset
  | .opening, some _, _ => c
  | .fwdWrite, some _, _ => c
  | .fwdRead, some _, _ => c
  | .awaitEnd, some _, _ => c

/-- R98, Table 4-9: one SGC's part, by its line state. -/
def State.switchResetSegment (s : State) (sg : Seg) : State :=
  match (s.sgc sg).line with
  | .recovery => s.modSgc sg fun c => { c with origin := none, freeCheck := true }
  | .faulted => s.modSgc sg fun c => { c with freeCheck := true }
  | .idle | .foreign | .busWait | .address | .write | .read | .ackHold | .parked | .stopping =>
    match (s.seg sg).owner with
    | some _ => s.closeSeg sg
    | none => s

/-- R152: a log emptied, with its RESET_NOTICE numbered 0. -/
def resetNoticeLog (mask : Word16) : Log := Log.enter mask (portRecord .resetNotice .zero) Log.reset

/-- Table 9-6, steps 1 to 5. -/
def State.switchReset (s : State) (clocked : List Port) : State :=
  let s1 := s.removeClaims
  let s2 := { s1 with ports := s1.ports.mapAll fun q c => c.switchReset (clocked.contains q) }
  let s3 := { s2 with leases := [], nextLeaseId := 1 }
  let s4 := Port.all.foldl State.portReleased (Seg.all.foldl State.switchResetSegment s3)
  { s4 with logs := s4.logs.mapAll fun p _ => resetNoticeLog (s4.port p).mask }

def switchResetBody (clocked : List Port) (_ : List Byte) (s : State) : Answered :=
  ⟨s.switchReset clocked, Reply.bare .ok⟩

/-- SWITCH_RESET. -/
def execSwitchReset (p : Port) (found : ResetSample) (s : State) : Host.Outcome State Fault Refusal :=
  .next ((s.sampleLines found.low).takeCommand p .switchReset (switchResetBody found.clocked))

/-! ### PORT_RESTORE (R139) -/

def portRestoreBody (args : List Byte) (s : State) : Answered :=
  match args with
  | [b] =>
    match portOfByte b with
    | none => refusedWith s .badArgument
    | some q =>
      if (s.port q).quarantined then
        ⟨s.modPort q fun c => { c with quarantined := false, errCount := 0 }, ⟨.ok, [portCode q]⟩⟩
      else refusedWith s .notFound
  | _ => refusedWith s .badLength

/-- PORT_RESTORE. -/
def execPortRestore (p : Port) (low : List Seg) (s : State) : Host.Outcome State Fault Refusal :=
  .next ((s.sampleLines low).takeCommand p .portRestore portRestoreBody)

/-! ### LOG_READ (R147, R149) -/

/-- The oldest n records leave the head, and the line is set again. -/
def Log.dropOldest (mask : Word16) (n : Nat) (l : Log) : Log :=
  { l with records := l.records.drop n, attLow := attentionDue mask (l.records.drop n) }

def logReadBody (p : Port) (args : List Byte) (s : State) : Answered :=
  match args with
  | [b] =>
    match readCountOf b with
    | none => refusedWith s .badArgument
    | some n =>
      ⟨s.modLog p (Log.dropOldest (s.port p).mask n), ⟨.ok, logPayload ((s.log p).records.take n)⟩⟩
  | _ => refusedWith s .badLength

/-- LOG_READ. -/
def execLogRead (p : Port) (low : List Seg) (s : State) : Host.Outcome State Fault Refusal :=
  .next ((s.sampleLines low).takeCommand p .logRead (logReadBody p))

end Sys2Proof.Machine
end

