-- ==== Sys2Proof/Machine/Reset.lean ====
section
/-! DEFINITION. DEVICE_RESET (R171). -/

namespace Sys2Proof.Machine

/-- R171: all state takes its device-reset values, and the straps are sampled. The commands that wait, the pins other
parties drive and the model's own count of free values are no state of the part (log entry 22). -/
def State.deviceReset (s : State) (straps : Straps) : State :=
  { State.reset with straps := straps, pending := s.pending, linesLow := s.linesLow, freeCount := s.freeCount }

/-- DEVICE_RESET. A pulse of 1 ms or more, or power-up, resets the part; a shorter pulse resets it or leaves all state
unchanged, by a free value (R171, log entry 8). -/
def execDeviceReset (pulse : ResetPulse) (straps : Straps) (s : State) : Host.Outcome State Fault Refusal :=
  match pulse with
  | .full => .next (s.deviceReset straps)
  | .short =>
    let used := { s with freeCount := s.freeCount + 1 }
    .next (if Config.shortPulseResets s.freeCount then used.deviceReset straps else used)

end Sys2Proof.Machine
end

