-- ==== Sys2Proof/Machine/Segment.lean ====
section
/-! DEFINITION. The commands that come from a downstream segment: the SGC's results, conditions seen, arbitration
losses, stuck lines, recoveries, the bus-free check and the end of a STOP. A command the rules do not allow in the
present line state leaves the state as it was (log entry 2). -/

namespace Sys2Proof.Machine

/-! ### START_FORMED -/

/-- R76: in BUS_WAIT with bus busy clear, both lines are high and the START is formed. -/
def execStartFormed (sg : Seg) (s : State) : Host.Outcome State Fault Refusal :=
  .next (if (s.sgc sg).line == .busWait && !(s.sgc sg).busBusy then s.modSgc sg Sgc.formStart else s)

/-! ### Conditions seen (R73, R86) -/

/-- R86: both lines are released; the line state follows the condition seen. -/
def Sgc.busError (seen : BusCondition) (c : Sgc) : Sgc :=
  match seen with
  | .start => { c with line := .foreign, busBusy := true }
  | .stop => { c with line := .idle, busBusy := false }

/-- R73, Table 4-3: a condition the part did not form. A STOP ends FOREIGN, and lets a START form in BUS_WAIT, also where
the bus-free check that follows a device reset (R19, Table 4-8) has not passed (log entry 30). -/
def State.conditionSeen (s : State) (sg : Seg) (seen : BusCondition) : State :=
  match (s.sgc sg).line, seen with
  | .idle, .start => s.modSgc sg fun c => { c with busBusy := true, line := .foreign }
  | .idle, .stop => s
  | .foreign, .start => s.modSgc sg fun c => { c with busBusy := true }
  | .foreign, .stop => s.modSgc sg fun c => { c with busBusy := false, line := .idle }
  | .busWait, .start => s.modSgc sg fun c => { c with busBusy := true }
  | .busWait, .stop => s.modSgc sg fun c => { c with busBusy := false }.formStart
  | .address, _ => s.endWithCause sg .downstreamError (Sgc.busError seen)
  | .write, _ => s.endWithCause sg .downstreamError (Sgc.busError seen)
  | .read, _ => s.endWithCause sg .downstreamError (Sgc.busError seen)
  | .stopping, _ => s.endWithCause sg .downstreamError (Sgc.busError seen)
  | .ackHold, _ => s
  | .parked, _ => s
  | .recovery, .start => s.modSgc sg fun c => { c with busBusy := true }
  | .recovery, .stop => s.modSgc sg fun c => { c with busBusy := false }
  | .faulted, .start => s.modSgc sg fun c => { c with busBusy := true }
  | .faulted, .stop => s.modSgc sg fun c => { c with busBusy := false }

/-- START_SEEN. -/
def execStartSeen (sg : Seg) (low : List Seg) (s : State) : Host.Outcome State Fault Refusal :=
  .next ((s.sampleLines low).conditionSeen sg .start)

/-- STOP_SEEN. -/
def execStopSeen (sg : Seg) (low : List Seg) (s : State) : Host.Outcome State Fault Refusal :=
  .next ((s.sampleLines low).conditionSeen sg .stop)

/-! ### ARBITRATION_LOSS (R83 to R85) -/

/-- R84, R85: both lines are released to the winner, whose traffic keeps the bus busy. -/
def Sgc.lostBus (c : Sgc) : Sgc := { c with line := .foreign, busBusy := true }

/-- R84: the attempt is retried when the bus is free. -/
def Sgc.retryAddress (c : Sgc) : Sgc :=
  { c with retry := c.retry + 1, line := .busWait, busBusy := true, formingRs := false }

/-- R84, R85, Table 4-5: the loss by the point at which it falls. -/
def State.arbitrationLoss (s : State) (sg : Seg) (point : LossPoint) : State :=
  let c := s.sgc sg
  match c.line, point with
  | .address, .repeatedStart => if c.formingRs then s.endWithCause sg .lostData Sgc.lostBus else s
  | .address, .bit =>
    if c.closing || Config.retryLimit ≤ c.retry then s.endWithCause sg .lostAddress Sgc.lostBus
    else s.modSgc sg Sgc.retryAddress
  | .write, .bit => s.endWithCause sg .lostData Sgc.lostBus
  | .parked, .bit => if c.nackOut then s.endWithCause sg .lostData Sgc.lostBus else s
  | .stopping, .bit => if c.nackOut then s.endWithCause sg .lostData Sgc.lostBus else s
  | .write, .repeatedStart => s
  | .parked, .repeatedStart => s
  | .stopping, .repeatedStart => s
  | .idle, _ => s
  | .foreign, _ => s
  | .busWait, _ => s
  | .read, _ => s
  | .ackHold, _ => s
  | .recovery, _ => s
  | .faulted, _ => s

/-- ARBITRATION_LOSS. -/
def execArbitrationLoss (sg : Seg) (point : LossPoint) (low : List Seg) (s : State) :
    Host.Outcome State Fault Refusal :=
  .next ((s.sampleLines low).arbitrationLoss sg point)

/-! ### STUCK_SCL and STUCK_SDA (R87 to R89) -/

/-- R87: the situations in which stuck SCL is detected. -/
def Sgc.stuckSclApplies (c : Sgc) : Bool :=
  match c.line with
  | .address | .write | .read | .stopping => true
  | .busWait => !c.busBusy
  | .idle | .foreign | .ackHold | .parked | .recovery | .faulted => false

/-- R88: the points at which stuck SDA is detected. -/
def Sgc.stuckSdaApplies (c : Sgc) : Bool :=
  match c.line with
  | .stopping => true
  | .address => c.formingRs
  | .busWait => !c.busBusy
  | .idle | .foreign | .write | .read | .ackHold | .parked | .recovery | .faulted => false

/-- Stuck detection of one line, where it applies. -/
def State.stuck (s : State) (sg : Seg) (line : BusLine) : State :=
  let applies := match line with
    | .scl => (s.sgc sg).stuckSclApplies
    | .sda => (s.sgc sg).stuckSdaApplies
  if applies then s.stuckDetected sg line else s

/-- STUCK_SCL. -/
def execStuckScl (sg : Seg) (low : List Seg) (s : State) : Host.Outcome State Fault Refusal :=
  .next ((s.sampleLines low).stuck sg .scl)

/-- STUCK_SDA. -/
def execStuckSda (sg : Seg) (low : List Seg) (s : State) : Host.Outcome State Fault Refusal :=
  .next ((s.sampleLines low).stuck sg .sda)

/-! ### ADDRESS_RESULT (R53, R78, R120) -/

/-- R78: what an acknowledge of the address byte does to the SGC. A close discards it: the byte's STOP follows, or one
byte is read first where the target will drive (Table 4-4). -/
def Sgc.addressDone (a : AckBit) (c : Sgc) : Sgc :=
  let reads := c.inHand.map (·.dir) == some .read
  let done := { c with inHand := none, formingRs := false }
  match a with
  | .ack =>
    if reads then { done with line := .read, dataDir := some .read }
    else if c.closing then { done with line := .stopping, dataDir := some .write }
    else { done with line := .parked, dataDir := some .write }
  | .nack => if c.closing then { done with line := .stopping } else { done with line := .parked }

/-- R53: the result relayed upstream by a single transaction. -/
def PortCtx.relayAddress (a : AckBit) (reads : Bool) (c : PortCtx) : PortCtx :=
  let given := (c.answer a).stopHold
  match a with
  | .ack => if reads then { given with phase := .fwdRead, sclHeld := true } else { given.startIdle with phase := .fwdWrite }
  | .nack => { given.startIdle with phase := .awaitEnd }

/-- R53, R120: an acknowledge of the address byte handed to the owner's UPC. -/
def State.takeAddressResult (s : State) (o : Owner) (sg : Seg) (a : AckBit) (reads : Bool) : State :=
  match o.kind with
  | .single => s.modPort o.port (PortCtx.relayAddress a reads)
  | .broadcast =>
    match a with
    | .ack => s.collect o.port
    | .nack => s.dropNacked o.port sg

/-- R78: the acknowledge bit of an address byte is sampled. -/
def State.addressAcked (s : State) (sg : Seg) (a : AckBit) : State :=
  let c := s.sgc sg
  if c.line != .address then s
  else
    let s1 := s.modSgc sg (Sgc.addressDone a)
    match (s.seg sg).owner with
    | some o => if c.closing then s1 else s1.takeAddressResult o sg a (c.inHand.map (·.dir) == some .read)
    | none => s1

/-- ADDRESS_RESULT. An abort cause is the event of its own row, taken in ADDRESS (log entry 19). -/
def execAddressResult (sg : Seg) (r : ByteOutcome) (low : List Seg) (s : State) : Host.Outcome State Fault Refusal :=
  let t := s.sampleLines low
  .next (match r with
    | .ack => t.addressAcked sg .ack
    | .nack => t.addressAcked sg .nack
    | .lost => if (t.sgc sg).line == .address then t.arbitrationLoss sg .bit else t
    | .stuck line => if (t.sgc sg).line == .address then t.stuck sg line else t
    | .busError seen => if (t.sgc sg).line == .address then t.conditionSeen sg seen else t)

/-! ### BYTE_RESULT (R55, R79, R122) -/

/-- R79: the byte is sent; a close's STOP follows it at once (Table 4-4). -/
def Sgc.byteDone (c : Sgc) : Sgc := { c with txByte := none, line := if c.closing then .stopping else .parked }

/-- R55 step 4: the acknowledge relayed upstream by a single transaction. -/
def PortCtx.relayByte (a : AckBit) (c : PortCtx) : PortCtx :=
  match a with
  | .ack => (c.answer .ack).startIdle.countByte
  | .nack => (c.answer .nack).startIdle

/-- R55, R122: an acknowledge of a write byte handed to the owner's UPC. -/
def State.takeByteResult (s : State) (o : Owner) (sg : Seg) (a : AckBit) : State :=
  match o.kind with
  | .single => s.modPort o.port (PortCtx.relayByte a)
  | .broadcast =>
    match a with
    | .ack => s.collect o.port
    | .nack => s.dropNacked o.port sg

/-- R79: the target's acknowledge of a write byte is sampled. -/
def State.byteAcked (s : State) (sg : Seg) (a : AckBit) : State :=
  let c := s.sgc sg
  if c.line != .write then s
  else
    let s1 := s.modSgc sg Sgc.byteDone
    match (s.seg sg).owner with
    | some o => if c.closing then s1 else s1.takeByteResult o sg a
    | none => s1

/-- BYTE_RESULT. An abort cause is the event of its own row, taken in WRITE (log entry 19). -/
def execByteResult (sg : Seg) (r : ByteOutcome) (low : List Seg) (s : State) : Host.Outcome State Fault Refusal :=
  let t := s.sampleLines low
  .next (match r with
    | .ack => t.byteAcked sg .ack
    | .nack => t.byteAcked sg .nack
    | .lost => if (t.sgc sg).line == .write then t.arbitrationLoss sg .bit else t
    | .stuck line => if (t.sgc sg).line == .write then t.stuck sg line else t
    | .busError seen => if (t.sgc sg).line == .write then t.conditionSeen sg seen else t)

/-! ### READ_BYTE (R57, R58, R80) -/

/-- R80: eight bits are in; within a close the byte is discarded, NACKed and followed by STOP (Table 4-4). -/
def State.readByte (s : State) (sg : Seg) (b : Byte) : State :=
  let c := s.sgc sg
  if c.line != .read then s
  else if c.closing then s.modSgc sg fun x => { x with line := .stopping, nackOut := true }
  else
    let s1 := s.modSgc sg fun x => { x with line := .ackHold }
    match (s.seg sg).owner with
    | some o => s1.modPort o.port fun x => { x.startIdle with sclHeld := false, out := some b }
    | none => s1

/-- READ_BYTE. -/
def execReadByte (sg : Seg) (b : Byte) (s : State) : Host.Outcome State Fault Refusal := .next (s.readByte sg b)

/-! ### Recovery (R90 to R92) and the bus-free check (R74) -/

/-- R91: the segment is IDLE and AVAILABLE, and nothing is granted. -/
def Sgc.recovered (c : Sgc) : Sgc := { c with line := .idle, busBusy := false, origin := none, freeCheck := false }

/-- R91. A recovery the switch reset abandoned has no origin and cannot end so (R98). -/
def State.recoverySucceeds (s : State) (sg : Seg) : State :=
  match (s.sgc sg).line, (s.sgc sg).origin with
  | .recovery, some (.automatic _) => s.modSgc sg Sgc.recovered
  | .recovery, some (.command p) =>
    (s.modSgc sg Sgc.recovered).writeRecord p (segmentRecord .recoveryDone sg .success)
  | _, _ => s

/-- R32: whether the port holds a lease on the segment. -/
def State.holdsLeaseOn (s : State) (sg : Seg) (p : Port) : Bool := s.leases.any fun l => l.seg == sg && l.holder == p

/-- R92, Table 4-7: the records of a failed recovery, one for each port concerned. -/
def State.faultRecords (s : State) (sg : Seg) (line : BusLine) (origin : RecoveryOrigin) : State :=
  let fault := segmentRecord .segmentFault sg (stuckDetail line)
  let holders := fun q => Port.all.filter fun p => p != q && s.holdsLeaseOn sg p
  match origin with
  | .automatic q => (holders q).foldl (fun t p => t.writeRecord p fault) (s.writeRecord q fault)
  | .command q =>
    (holders q).foldl (fun t p => t.writeRecord p fault) (s.writeRecord q (segmentRecord .recoveryDone sg .failed))

/-- R92: the segment is FAULTED, the condition change is handed over and the records are written. -/
def State.recoveryFails (s : State) (sg : Seg) (line : BusLine) : State :=
  match (s.sgc sg).line, (s.sgc sg).origin with
  | .recovery, some origin =>
    ((s.modSgc sg fun c => { c with line := .faulted, origin := none }).conditionLeft sg).faultRecords sg line origin
  | _, _ => s

/-- RECOVERY_SUCCESS, where Table 4-6 ends so on the lines seen (log entry 18). -/
def execRecoverySuccess (sg : Seg) (seen : RecoveryLines) (s : State) : Host.Outcome State Fault Refusal :=
  .next (match recoverySequence seen with
    | some .success => s.recoverySucceeds sg
    | some (.failed _) => s
    | none => s)

/-- RECOVERY_FAILURE, where Table 4-6 ends so on the lines seen (log entry 18). -/
def execRecoveryFailure (sg : Seg) (seen : RecoveryLines) (s : State) : Host.Outcome State Fault Refusal :=
  .next (match recoverySequence seen with
    | some (.failed line) => s.recoveryFails sg line
    | some .success => s
    | none => s)

/-- R74, R98: what a passed bus-free check does in each line state that runs it. -/
def Sgc.busFree (c : Sgc) : Sgc :=
  match c.line with
  | .foreign => { c with busBusy := false, line := .idle }
  | .busWait => if c.busBusy then { c with busBusy := false }.formStart else c
  | .recovery => if c.freeCheck then { c with busBusy := false, line := .idle, freeCheck := false } else c
  | .faulted => if c.freeCheck then { c with busBusy := false, line := .idle, freeCheck := false } else c
  | .idle | .address | .write | .read | .ackHold | .parked | .stopping => c

/-- BUS_FREE_CHECK. -/
def execBusFreeCheck (sg : Seg) (s : State) : Host.Outcome State Fault Refusal := .next (s.modSgc sg Sgc.busFree)

/-! ### STOP_DONE (R82) -/

/-- STOP_DONE: the line state is IDLE and the release takes effect. -/
def execStopDone (sg : Seg) (low : List Seg) (s : State) : Host.Outcome State Fault Refusal :=
  let t := s.sampleLines low
  .next (if (t.sgc sg).line == .stopping then (t.modSgc sg fun c => { c with line := .idle }).releaseSeg sg none else t)

end Sys2Proof.Machine
end

