-- ==== Sys2Proof/Machine/SegmentCommands.lean ====
section
/-! DEFINITION. The segment commands: SEGMENT_SET and SEGMENT_RECOVER. -/

namespace Sys2Proof.Machine

/-! ### SEGMENT_SET (R95) -/

/-- R95: whether the segment stands PENDING or OWNED in some port's broadcast set, or, DROPPED from it, is still owned
until its closing STOP is done: R4 and R77 keep the flag of every segment a broadcast owns (log entry 29). -/
def State.inBroadcast (s : State) (sg : Seg) : Bool :=
  (Port.all.any fun p => s.markOf p sg == some .pending || s.markOf p sg == some .owned) ||
    (s.seg sg).owner.any (·.kind == .broadcast)

def segmentSetBody (args : List Byte) (s : State) : Answered :=
  match args with
  | [b, r, l, f] =>
    match segOfByte b, rateOfByte r, stuckLimitOf l, flagOfByte f with
    | some sg, some rate, some limit, some flag =>
      if !flag && s.inBroadcast sg then refusedWith s .busy
      else
        ⟨s.modSgc sg fun c => { c with pendingRate := rate, pendingStuck := limit, broadcastFlag := flag },
          Reply.bare .ok⟩
    | _, _, _, _ => refusedWith s .badArgument
  | _ => refusedWith s .badLength

/-- SEGMENT_SET. -/
def execSegmentSet (p : Port) (low : List Seg) (s : State) : Host.Outcome State Fault Refusal :=
  .next ((s.sampleLines low).takeCommand p .segmentSet segmentSetBody)

/-! ### SEGMENT_RECOVER (R96) -/

/-- R96: RECOVERY is entered with the origin COMMAND, and a change of condition is handed to the Arbiter. -/
def State.startRecovery (s : State) (p : Port) (sg : Seg) : State :=
  (s.modSgc sg fun c => { c with line := .recovery, origin := some (.command p), freeCheck := false }).conditionLeft sg

def segmentRecoverBody (p : Port) (args : List Byte) (s : State) : Answered :=
  match args with
  | [b] =>
    match segOfByte b with
    | none => refusedWith s .badArgument
    | some sg =>
      if (s.seg sg).owner.isSome || (s.sgc sg).line == .recovery then refusedWith s .busy
      else ⟨s.startRecovery p sg, Reply.bare .ok⟩
  | _ => refusedWith s .badLength

/-- SEGMENT_RECOVER. -/
def execSegmentRecover (p : Port) (low : List Seg) (s : State) : Host.Outcome State Fault Refusal :=
  .next ((s.sampleLines low).takeCommand p .segmentRecover (segmentRecoverBody p))

end Sys2Proof.Machine
end

