-- ==== Sys2Proof/Machine/Upstream.lean ====
section
/-! DEFINITION. The commands that come from an upstream bus: address bytes, write bytes, acknowledges of read bytes,
STOPs, bus errors, and the bytes of management transactions. A command the rules do not allow in the present phase
leaves the state as it was (log entry 2). -/

namespace Sys2Proof.Machine

/-! ### ADDRESS_BYTE -/

/-- R62: the address byte is held, the release is asked for, and the byte is resolved when it takes effect. -/
def State.holdForRelease (s : State) (p : Port) (b : AddrByte) : State :=
  (s.modPort p fun c =>
    { c.stopTimers with phase := .awaitEnd, release := some (.address b none), sclHeld := true, out := none }).closeAll p

/-- R61: whether steps 1 to 7 pass with a route to a segment the port owns as SINGLE. -/
def State.keptRoute (s : State) (p : Port) (b : AddrByte) : Option Route :=
  match s.resolution p b with
  | .route r => if (s.seg r.seg).owner == some ⟨p, .single⟩ then some r else none
  | .silentNack => none
  | .broadcast => none
  | .management _ => none
  | .refused _ _ => none

/-- R61: the segment is kept; the route is replaced, the hold timer starts and the SGC forms RS. -/
def State.keepSegment (s : State) (p : Port) (r : Route) : State :=
  (s.modPort p fun c =>
    { c.stopIdle.startHold with phase := .opening, route := some r, sclHeld := true, out := none }).modSgc r.seg
      (Sgc.repeatStart (.device r.downstream) r.dir)

/-- R61, R62: an address byte after an RS while the port owns a segment and has no release pending. -/
def State.repeatedStart (s0 : State) (p : Port) (b : AddrByte) : State :=
  let s := s0.modPort p PortCtx.takeLimits
  match s.keptRoute p b with
  | some r => s.keepSegment p r
  | none => s.holdForRelease p b

/-- R44: an address byte taken while END or ABORT is pending is held under ADDRESS. -/
def State.holdOver (s : State) (p : Port) (b : AddrByte) (e : Ending) : State :=
  s.modPort p fun c => { c with release := some (.address b (some e)), sclHeld := true, out := none }

/-- R157: an address byte taken before the reply to the port's last message is held; else it is resolved. -/
def State.resolveOrHold (s : State) (p : Port) (b : AddrByte) : State :=
  match (s.port p).handed with
  | some _ => s.modPort p fun c => { c with heldAddr := some b, sclHeld := true, out := none }
  | none => s.resolve p b

/-- The address byte by the port's phase (R46, R47, R61, R62, R132, R156, R160). With the clock held no condition can
be formed on the bus. -/
def State.addressByte (s : State) (p : Port) (b : AddrByte) : State :=
  let c := s.port p
  if c.sclHeld then s
  else match c.phase, c.release with
    | .idle, _ => s.resolveOrHold p b
    | .mgmtWrite, _ => (s.modPort p (PortCtx.endWrite .start)).resolveOrHold p b
    | .mgmtRead, _ => s.resolve p b
    | .drain, _ => s.resolve p b
    | .fwdWrite, none => s.repeatedStart p b
    | .awaitEnd, none => s.repeatedStart p b
    | .awaitEnd, some (.ending e) => s.holdOver p b e
    | .awaitEnd, some (.address _ _) => s
    | .fwdWrite, some _ => s
    | .claim, _ => s
    | .opening, _ => s
    | .fwdRead, _ => s

/-- ADDRESS_BYTE. -/
def execAddressByte (p : Port) (b : AddrByte) (low : List Seg) (s : State) : Host.Outcome State Fault Refusal :=
  .next ((s.sampleLines low).addressByte p b)

/-! ### DATA_BYTE and MASTER_ACKNOWLEDGE -/

/-- The segments a write byte is handed to: every segment owned, less the dropped ones of a broadcast (R55, R122). -/
def State.relaySegs (s : State) (p : Port) : List Seg :=
  match (s.port p).bset with
  | some _ => s.ownedMembers p
  | none => s.ownedBy p

/-- R55 steps 1 and 2, R122 steps 1 and 2; elsewhere the part does not drive the acknowledge (R48, R60, R131). -/
def State.dataByte (s : State) (p : Port) (b : Byte) : State :=
  let c := s.port p
  if c.sclHeld then s
  else match c.phase, c.release with
    | .fwdWrite, none =>
      (s.relaySegs p).foldl (fun t sg => t.modSgc sg (Sgc.sendByte b))
        (s.modPort p fun x => { x.stopIdle with sclHeld := true })
    | .idle, _ => s.modPort p fun x => { x with ack := some .nack }
    | .drain, _ => s.modPort p fun x => { x with ack := some .nack }
    | .awaitEnd, _ => s.modPort p fun x => { x with ack := some .nack }
    | .fwdWrite, some _ => s
    | .mgmtWrite, _ => s
    | .mgmtRead, _ => s
    | .claim, _ => s
    | .opening, _ => s
    | .fwdRead, _ => s

/-- DATA_BYTE. -/
def execDataByte (p : Port) (b : Byte) (s : State) : Host.Outcome State Fault Refusal := .next (s.dataByte p b)

/-- R58 steps 3 to 5, R59: the byte counts, and the master's acknowledge is handed to the SGC. -/
def State.masterAcknowledge (s : State) (p : Port) (a : AckBit) : State :=
  let c := s.port p
  if c.sclHeld || c.phase != .fwdRead then s
  else
    let s1 := (s.ownedBy p).foldl (fun t sg => t.modSgc sg (Sgc.giveAck a)) s
    match a with
    | .ack => s1.modPort p fun x => { x.countByte.stopIdle with sclHeld := true, out := none }
    | .nack => s1.modPort p fun x => { x.countByte with phase := .awaitEnd, out := none }

/-- MASTER_ACKNOWLEDGE. In AWAIT_END and DRAIN the master's acknowledges are ignored (R60, R131). -/
def execMasterAcknowledge (p : Port) (a : AckBit) (s : State) : Host.Outcome State Fault Refusal :=
  .next (s.masterAcknowledge p a)

/-! ### UPSTREAM_STOP -/

/-- R63: a STOP ends the transaction with END pending. -/
def State.stopTransaction (s : State) (p : Port) : State :=
  (s.modPort p fun c => { c.stopTimers with phase := .awaitEnd, release := some (.ending .stop) }).closeAll p

/-- The STOP by the port's phase (R63, R44, R132, R156, R160). In FWD_READ it is an upstream bus error (R59), which is
a command of its own; with the clock held no condition can be formed. -/
def State.upstreamStop (s : State) (p : Port) : State :=
  let c := s.port p
  if c.sclHeld then s
  else match c.phase, c.release with
    | .idle, _ => s
    | .mgmtWrite, _ => s.modPort p (PortCtx.endWrite .stop)
    | .mgmtRead, _ => s.modPort p fun x => { x with phase := .idle, readPos := none, out := none }
    | .drain, _ => s.modPort p fun x => { x with phase := .idle }
    | .fwdWrite, none => s.stopTransaction p
    | .awaitEnd, none => s.stopTransaction p
    | .awaitEnd, some (.ending (.abort a)) => s.modPort p fun x => { x with release := some (.ending (.stopAfterAbort a)) }
    | .awaitEnd, some (.ending .stop) => s
    | .awaitEnd, some (.ending .hold) => s
    | .awaitEnd, some (.ending (.stopAfterAbort _)) => s
    | .awaitEnd, some (.address _ _) => s
    | .fwdWrite, some _ => s
    | .claim, _ => s
    | .opening, _ => s
    | .fwdRead, _ => s

/-- UPSTREAM_STOP. -/
def execUpstreamStop (p : Port) (low : List Seg) (s : State) : Host.Outcome State Fault Refusal :=
  .next ((s.sampleLines low).upstreamStop p)

/-! ### UPSTREAM_BUS_ERROR -/

/-- R68: one more error; at 4 the count stays at 4. -/
def PortCtx.countError (c : PortCtx) : PortCtx :=
  { c with errCount := if c.errCount < Config.quarantineThreshold then c.errCount + 1 else c.errCount }

/-- R135: the error that brings the count to 4 enters quarantine at once when the port owns nothing, and is held for
the release when it owns a segment. -/
def State.quarantineCheck (s : State) (p : Port) (before : Nat) : State :=
  if before < Config.quarantineThreshold && (s.port p).errCount == Config.quarantineThreshold
      && !(s.port p).quarantined then
    if (s.ownedBy p).isEmpty then s.enterQuarantine p
    else s.modPort p fun c => { c with quarantineHeld := true }
  else s

/-- R58 step 3: a read byte whose eighth bit has been clocked counts, though its acknowledge was cut. -/
def PortCtx.countIfClocked (pos : BitPosition) (c : PortCtx) : PortCtx :=
  match c.phase, pos with
  | .fwdRead, .afterEighth => c.countByte
  | _, _ => c

/-- R133: the error aborts the transaction; a STOP then sets END in place of ABORT. A START in a broadcast's AWAIT_END that
owns no segment leaves the port in DRAIN until its address byte (log entry 33). -/
def State.errorAborts (s : State) (p : Port) (seen : BusCondition) (pos : BitPosition) : State :=
  let before := (s.port p).errCount
  let s1 := (s.modPort p fun c => (c.countIfClocked pos).countError).abortPort p .upstreamError
  let s2 := s1.quarantineCheck p before
  let s3 := match seen with
    | .stop => s2.modPort p fun c => { c with release := some (.ending (.stopAfterAbort .cause)) }
    | .start => s2
  s3.closeAll p

/-- R134, Table 7-5: the error outside the forwarded phases counts, and then the condition is taken. -/
def State.errorCounts (s : State) (p : Port) (f : PortCtx → PortCtx) : State :=
  let before := (s.port p).errCount
  ((s.modPort p PortCtx.countError).quarantineCheck p before).modPort p f

/-- Table 7-5: a management phase cut by an error; after a START the phase stays until the address byte (R46). -/
def PortCtx.cutManagement (seen : BusCondition) (c : PortCtx) : PortCtx :=
  let cut := { c with message := ⟨[], false⟩, readPos := none, out := none }
  match seen with
  | .stop => { cut with phase := .idle }
  | .start => cut

/-- The upstream bus error by the port's phase (R133, R134). -/
def State.upstreamBusError (s : State) (p : Port) (seen : BusCondition) (pos : BitPosition) : State :=
  let c := s.port p
  if c.sclHeld || !c.party then s
  else match c.phase, c.release with
    | .fwdWrite, none => s.errorAborts p seen pos
    | .fwdRead, none => s.errorAborts p seen pos
    | .awaitEnd, none => s.errorAborts p seen pos
    | .mgmtWrite, _ => s.errorCounts p (PortCtx.cutManagement seen)
    | .mgmtRead, _ => s.errorCounts p (PortCtx.cutManagement seen)
    | .drain, _ => s.errorCounts p fun x => { x with phase := if seen == .stop then .idle else .drain }
    | .awaitEnd, some (.ending (.abort a)) =>
      s.errorCounts p fun x => { x with release := if seen == .stop then some (.ending (.stopAfterAbort a)) else x.release }
    | .awaitEnd, some _ => s
    | .fwdWrite, some _ => s
    | .fwdRead, some _ => s
    | .idle, _ => s
    | .claim, _ => s
    | .opening, _ => s

/-- UPSTREAM_BUS_ERROR. -/
def execUpstreamBusError (p : Port) (seen : BusCondition) (pos : BitPosition) (low : List Seg) (s : State) :
    Host.Outcome State Fault Refusal :=
  .next ((s.sampleLines low).upstreamBusError p seen pos)

/-! ### Management transactions -/

/-- R155: up to sixteen bytes are stored and ACKed; a later byte is NACKed and sets the overlong mark. -/
def PortCtx.storeByte (b : Byte) (c : PortCtx) : PortCtx :=
  if c.message.bytes.length < Config.messageCapacity then
    { c with message := { c.message with bytes := c.message.bytes ++ [b] }, ack := some .ack }
  else { c with message := { c.message with overlong := true }, ack := some .nack }

/-- MGMT_DATA_BYTE. -/
def execMgmtDataByte (p : Port) (b : Byte) (s : State) : Host.Outcome State Fault Refusal :=
  .next (if (s.port p).phase == .mgmtWrite then s.modPort p (PortCtx.storeByte b) else s)

/-- MANAGEMENT_WRITE_END: a START here is the RS that ends the write (R156). -/
def execManagementWriteEnd (p : Port) (seen : BusCondition) (s : State) : Host.Outcome State Fault Refusal :=
  .next (if (s.port p).phase == .mgmtWrite then s.modPort p (PortCtx.endWrite seen) else s)

/-- R160: after ACK the next byte of the reply is presented; after NACK nothing more is driven. -/
def PortCtx.readNext (a : AckBit) (c : PortCtx) : PortCtx :=
  match a, c.readPos with
  | .ack, some n => { c with readPos := some (n + 1), out := replyByte c.reply (n + 1) }
  | .ack, none => c
  | .nack, _ => { c with readPos := none, out := none }

/-- MGMT_READ_ACKNOWLEDGE. -/
def execMgmtReadAcknowledge (p : Port) (a : AckBit) (s : State) : Host.Outcome State Fault Refusal :=
  .next (if (s.port p).phase == .mgmtRead then s.modPort p (PortCtx.readNext a) else s)

end Sys2Proof.Machine
end

