-- ==== Sys2Proof/Machine/Timers.lean ====
section
/-! DEFINITION. The expiries of the port timers and of leases, and the millisecond that passes when no command waits. -/

namespace Sys2Proof.Machine

/-! ### HOLD_EXPIRY (R15, R16, R51, R54, R118, R121) -/

/-- R54, R118, R121: the address is NACKed, WAIT_EXPIRED is written, END becomes pending and the segments are closed. -/
def State.expireAddress (s : State) (p : Port) (sg : Option Seg) : State :=
  let s1 := s.modPort p fun c =>
    { (c.answer .nack).stopTimers with phase := .awaitEnd, release := some (.ending .hold), withdrawal := none }
  (s1.writeRecord p (refusalRecord .waitExpired (s.port p).visible sg)).closeAll p

/-- R15, R51: the withdrawal of a single transaction reaches the Arbiter while its claim still waits. -/
def State.withdrawSingle (s : State) (p : Port) (r : Route) : State :=
  if (s.seg r.seg).waitList.any (·.port == p) then
    (s.withdraw p r.seg).refuse p (refusalRecord .waitExpired (some r.visible) (some r.seg))
  else s

/-- R118: in acquisition the claim the withdrawal was sent for, or the one that waits, is withdrawn first, if it is still
there; the record names its segment, removed or granted (Table 6-1). -/
def State.expireAcquisition (s : State) (p : Port) : State :=
  match (s.port p).withdrawal <|> s.waitingIn p with
  | some sg => (s.withdraw p sg).expireAddress p (some sg)
  | none => s.expireAddress p none

/-- R51, R118: a port in CLAIM sends the withdrawal for its waiting claim, which is on its way when the step ends. -/
def State.sendWithdrawal (s : State) (p : Port) (sg : Seg) : State :=
  s.modPort p fun c => { c with withdrawal := some sg }

/-- The segment of the claim for which a withdrawal is sent and left on its way, if one is (log entry 32). -/
def State.crossingFor (s : State) (p : Port) (crossing : Bool) : Option Seg :=
  if crossing && (s.port p).phase == .claim && (s.port p).withdrawal.isNone then s.waitingIn p else none

/-- What the expiry does by the port's phase, once its withdrawal, if it sends one, has reached the Arbiter (R51, R54,
R118, R121). A port whose claim was granted while its withdrawal was on its way is in OPEN, with no START (R51). -/
def State.expireHold (s : State) (p : Port) : State :=
  let c := s.port p
  match c.phase, c.bset, c.route with
  | .claim, some _, _ => s.expireAcquisition p
  | .claim, none, some r => s.withdrawSingle p r
  | .claim, none, none => s
  | .opening, some _, _ => s.expireAddress p none
  | .opening, none, r => s.expireAddress p (r.map (·.seg))
  | .idle, _, _ => s
  | .mgmtWrite, _, _ => s
  | .mgmtRead, _, _ => s
  | .fwdWrite, _, _ => s
  | .fwdRead, _, _ => s
  | .awaitEnd, _, _ => s
  | .drain, _, _ => s

/-- A hold expiry; it can reach only a running timer (R45). -/
def State.holdExpiry (s : State) (p : Port) (crossing : Bool) : State :=
  if !(s.port p).hold.running then s
  else match s.crossingFor p crossing with
    | some sg => s.sendWithdrawal p sg
    | none => s.expireHold p

/-- HOLD_EXPIRY. -/
def execHoldExpiry (p : Port) (found : ExpirySample) (s : State) : Host.Outcome State Fault Refusal :=
  .next ((s.sampleLines found.low).holdExpiry p found.crossing)

/-! ### OWNER_IDLE_EXPIRY (R65) -/

/-- R65, R124: ABORT_OWNER_IDLE is written and the segments are closed; it can reach only a running timer. -/
def State.ownerIdleExpiry (s : State) (p : Port) (pos : BitPosition) : State :=
  if !(s.port p).idle.running then s
  else ((s.modPort p (PortCtx.countIfClocked pos)).abortPort p .ownerIdle).closeAll p

/-- OWNER_IDLE_EXPIRY. -/
def execOwnerIdleExpiry (p : Port) (pos : BitPosition) (low : List Seg) (s : State) :
    Host.Outcome State Fault Refusal :=
  .next ((s.sampleLines low).ownerIdleExpiry p pos)

/-! ### LEASE_EXPIRY (R27) and the millisecond (R26) -/

/-- R26 to R28: the expiry of a lease whose count has run out. One that finds no lease, or a lease that is not due
(granted or renewed since), does nothing. -/
def State.leaseExpiry (s : State) (id : Byte) : State :=
  match s.leaseOf id with
  | some l => if l.due then s.expireLease id else s
  | none => s

/-- LEASE_EXPIRY. -/
def execLeaseExpiry (id : Byte) (s : State) : Host.Outcome State Fault Refusal := .next (s.leaseExpiry id)

/-- R26: one millisecond of a lease. A count that would reach 0 leaves the lease due to expire. -/
def Lease.countDown (l : Lease) : Lease :=
  if l.remaining.toNat ≤ 1 then { l with due := true } else { l with remaining := l.remaining - 1 }

/-- R2, R26: one millisecond passes. The leases that were due expire, in ascending id, for none may outlive its duration
by more than 1 ms; every other count goes down by one (log entry 4). -/
def State.millisecond (s : State) : State :=
  let expired := ((s.leases.filter (·.due)).map (·.id)).foldl State.expireLease s
  expired.setLeases (expired.leases.map Lease.countDown)

end Sys2Proof.Machine
end

