-- ==== Sys2Proof/Machine/Dispatch.lean ====
section
/-! DEFINITION. One arm for each command of the opcode table. -/

namespace Sys2Proof.Machine

def exec (i : Instr) (s : State) : Host.Outcome State Fault Refusal :=
  match i with
  | .deviceReset pulse straps => Sys2Proof.Machine.execDeviceReset pulse straps s
  | .addressByte p b low => Sys2Proof.Machine.execAddressByte p b low s
  | .startFormed sg => Sys2Proof.Machine.execStartFormed sg s
  | .addressResult sg r low => Sys2Proof.Machine.execAddressResult sg r low s
  | .dataByte p b => Sys2Proof.Machine.execDataByte p b s
  | .byteResult sg r low => Sys2Proof.Machine.execByteResult sg r low s
  | .readByte sg b => Sys2Proof.Machine.execReadByte sg b s
  | .masterAcknowledge p a => Sys2Proof.Machine.execMasterAcknowledge p a s
  | .upstreamStop p low => Sys2Proof.Machine.execUpstreamStop p low s
  | .upstreamBusError p seen pos low => Sys2Proof.Machine.execUpstreamBusError p seen pos low s
  | .mgmtDataByte p b => Sys2Proof.Machine.execMgmtDataByte p b s
  | .managementWriteEnd p seen => Sys2Proof.Machine.execManagementWriteEnd p seen s
  | .mgmtReadAcknowledge p a => Sys2Proof.Machine.execMgmtReadAcknowledge p a s
  | .unknownCommand p low => Sys2Proof.Machine.execUnknownCommand p low s
  | .status p low => Sys2Proof.Machine.execStatus p low s
  | .portSet p low => Sys2Proof.Machine.execPortSet p low s
  | .switchReset p found => Sys2Proof.Machine.execSwitchReset p found s
  | .reserve p low => Sys2Proof.Machine.execReserve p low s
  | .renew p low => Sys2Proof.Machine.execRenew p low s
  | .release p low => Sys2Proof.Machine.execRelease p low s
  | .revoke p low => Sys2Proof.Machine.execRevoke p low s
  | .leaseList p low => Sys2Proof.Machine.execLeaseList p low s
  | .segmentSet p low => Sys2Proof.Machine.execSegmentSet p low s
  | .segmentRecover p low => Sys2Proof.Machine.execSegmentRecover p low s
  | .mapSet p low => Sys2Proof.Machine.execMapSet p low s
  | .mapClear p low => Sys2Proof.Machine.execMapClear p low s
  | .mapRead p low => Sys2Proof.Machine.execMapRead p low s
  | .portRestore p low => Sys2Proof.Machine.execPortRestore p low s
  | .logRead p low => Sys2Proof.Machine.execLogRead p low s
  | .holdExpiry p found => Sys2Proof.Machine.execHoldExpiry p found s
  | .ownerIdleExpiry p pos low => Sys2Proof.Machine.execOwnerIdleExpiry p pos low s
  | .leaseExpiry id => Sys2Proof.Machine.execLeaseExpiry id s
  | .stuckScl sg low => Sys2Proof.Machine.execStuckScl sg low s
  | .stuckSda sg low => Sys2Proof.Machine.execStuckSda sg low s
  | .recoverySuccess sg seen => Sys2Proof.Machine.execRecoverySuccess sg seen s
  | .recoveryFailure sg seen => Sys2Proof.Machine.execRecoveryFailure sg seen s
  | .busFreeCheck sg => Sys2Proof.Machine.execBusFreeCheck sg s
  | .startSeen sg low => Sys2Proof.Machine.execStartSeen sg low s
  | .stopSeen sg low => Sys2Proof.Machine.execStopSeen sg low s
  | .arbitrationLoss sg point low => Sys2Proof.Machine.execArbitrationLoss sg point low s
  | .stopDone sg low => Sys2Proof.Machine.execStopDone sg low s

end Sys2Proof.Machine
end

