-- ==== Sys2Proof/Safety.lean ====
section
/-! DEFINITION. What every state of a run has: the invariants the manual gives its tables, logs, segment records,
segment controllers and ports. And the words the statements are written in: what a management command was asked, and
what it answered. -/

namespace Sys2Proof.Machine

/-! ### Invariants -/

/-- An address a device may have (R99). -/
def deviceAddress (a : Addr) : Prop := 0x08 ≤ a.toNat ∧ a.toNat ≤ 0x77

/-- R99: what one entry of the route map holds, under the straps that fix the management address. -/
structure EntryOk (st : Straps) (e : RouteEntry) : Prop where
  visible : deviceAddress e.visible
  notManagement : e.visible ≠ mgmtAddress st
  downstream : deviceAddress e.downstream
  ports : ∃ p, e.ports.get p = true
  access : e.access.read = true ∨ e.access.write = true

/-- R100: at most 32 entries, in ascending order of visible address, so no two with the same one. -/
structure MapOk (s : State) : Prop where
  size : s.map.length ≤ Config.routeCapacity
  ascending : s.map.Pairwise fun a b => a.visible.toNat < b.visible.toNat
  entries : ∀ e ∈ s.map, EntryOk s.straps e

/-- Table 2-1: what one lease holds. -/
structure LeaseOk (l : Lease) : Prop where
  id : l.id ≠ 0
  target : ∀ a ∈ l.target, deviceAddress a
  remaining : 1 ≤ l.remaining.toNat ∧ l.remaining.toNat ≤ 60000
  due : l.due = true → l.remaining.toNat = 1

/-- R22 to R25: the lease table in ascending order of id, no two leases overlapping, within its capacity and the
capacity of a port, a quarantined port holding none. -/
structure LeaseTableOk (s : State) : Prop where
  size : s.leases.length ≤ Config.leaseCapacity
  perPort : ∀ p, (s.leasesHeld p).length ≤ Config.leasesPerPort
  ascending : s.leases.Pairwise fun a b => a.id.toNat < b.id.toNat
  apart : s.leases.Pairwise fun a b => a.overlaps b.seg b.target = false
  records : ∀ l ∈ s.leases, LeaseOk l
  counter : s.nextLeaseId ≠ 0
  quarantined : ∀ p, (s.port p).quarantined = true → s.leasesHeld p = []

/-- R141: each number is one more than the one before it, and the number that comes next is one more than the last. -/
def numberedUpTo (next : Word16) : List Record → Prop
  | [] => True
  | [r] => r.seq + 1 = next
  | r :: q :: rest => r.seq + 1 = q.seq ∧ numberedUpTo next (q :: rest)

/-- R141, R149: a log of at most 16 records, numbered without a gap, whose line is low exactly while it holds a record
of a kind in the mask. -/
structure LogOk (mask : Word16) (l : Log) : Prop where
  size : l.records.length ≤ Config.logDepth
  numbered : numberedUpTo l.nextSeq l.records
  line : l.attLow = attentionDue mask l.records

/-- R7, R13, R14: a segment that is AVAILABLE and has no owner has an empty wait list; a segment that is not AVAILABLE
has no owner and an empty wait list. -/
structure ArbiterOk (s : State) (sg : Seg) : Prop where
  unowned : (s.seg sg).owner = none → (s.seg sg).waitList = []
  unavailable : s.condition sg ≠ .available → (s.seg sg).owner = none ∧ (s.seg sg).waitList = []

/-- The line states in which the part is master of the segment (R86, R87). -/
def LineState.master : LineState → Bool
  | .address | .write | .read | .ackHold | .parked | .stopping => true
  | .idle | .foreign | .busWait | .recovery | .faulted => false

/-- A stuck limit in its range (Table 4-1). -/
def stuckRange (b : Byte) : Prop := 5 ≤ b.toNat ∧ b.toNat ≤ 250

/-- Tables 4-1 and 4-3: bus busy agrees with the line state, the retry count and the stuck limits are in range, and the
recovery origin is present exactly while a recovery of R90 runs. -/
structure SgcOk (c : Sgc) : Prop where
  foreign : c.line = .foreign → c.busBusy = true
  idle : c.line = .idle → c.busBusy = false
  master : c.line.master = true → c.busBusy = false
  retry : c.retry ≤ Config.retryLimit
  active : stuckRange c.activeStuck
  pending : stuckRange c.pendingStuck
  freeCheck : c.freeCheck = true → c.line = .recovery ∨ c.line = .faulted
  origin : c.origin.isSome = (c.line == .recovery && !c.freeCheck)

/-- A hold limit or owner idle limit in its range (Table 3-1). -/
def limitRange (b : Byte) : Prop := 1 ≤ b.toNat ∧ b.toNat ≤ 250

/-- Table 3-1, R155: the ranges of a port's settings, limits taken, error count and message buffer. -/
structure PortOk (c : PortCtx) : Prop where
  holdLimit : limitRange c.holdLimit
  idleLimit : limitRange c.idleLimit
  holdTaken : limitRange c.hold.limit
  idleTaken : limitRange c.idle.limit
  mask : c.mask.getLsbD 15 = false
  errCount : c.errCount ≤ Config.quarantineThreshold
  message : c.message.bytes.length ≤ Config.messageCapacity

/-- R159: a reply's payload is at most 56 bytes. -/
def ReplyOk (c : PortCtx) : Prop := c.reply.payload.length ≤ 56

/-- Who owns and who waits. A port's claim stands in one list at most, once, and only in CLAIM (R7); a port owns one
segment, or several as a broadcast, each with its flag set (R4), and only in a phase of R43; a withdrawal on its way names
the one segment the port can wait for (R15). Beside these, what carries them from step to step: where a broadcast set and
its marks stand (R113), the line states of segments not in use (R75), and the phases in which a release is pending (R44),
the owner idle timer runs (R64) and an address byte waits for a reply (R157). -/
structure OwnershipOk (s : State) : Prop where
  claimPhase : ∀ sg, ∀ c ∈ (s.seg sg).waitList, (s.port c.port).phase = .claim
  claimOnce : ∀ p, (Seg.all.flatMap fun sg => (s.seg sg).waitList.filter fun c => c.port == p).length ≤ 1
  withdrawn : ∀ p w, (s.port p).withdrawal = some w → ∀ sg, ∀ c ∈ (s.seg sg).waitList, c.port = p → sg = w
  singleClaim : ∀ sg p a, ⟨p, .device a⟩ ∈ (s.seg sg).waitList →
    (s.port p).bset = none ∧ (s.port p).route.map (·.seg) = some sg
  broadcastClaim : ∀ sg p, ⟨p, .generalCall⟩ ∈ (s.seg sg).waitList → s.markOf p sg = some .pending
  ownPhase : ∀ sg o, (s.seg sg).owner = some o →
    (s.port o.port).phase ∈ ([.claim, .opening, .fwdWrite, .fwdRead, .awaitEnd] : List Phase)
  singleOwner : ∀ sg p, (s.seg sg).owner = some ⟨p, .single⟩ → (s.port p).phase ≠ .claim ∧ s.ownedBy p = [sg]
  broadcastOwner : ∀ sg p, (s.seg sg).owner = some ⟨p, .broadcast⟩ →
    s.markOf p sg = some .owned ∨ (s.markOf p sg = some .dropped ∧ (s.port p).phase ≠ .claim)
  ownedMark : ∀ sg p, s.markOf p sg = some .owned → (s.port p).phase = .claim →
    (s.seg sg).owner = some ⟨p, .broadcast⟩
  flagged : ∀ sg p, s.markOf p sg = some .pending ∨ (s.seg sg).owner = some ⟨p, .broadcast⟩ →
    (s.sgc sg).broadcastFlag = true
  acquiring : ∀ sg o, (s.seg sg).owner = some o → (s.port o.port).phase = .claim →
    (s.sgc sg).line = .idle ∨ (s.sgc sg).line = .foreign
  unowned : ∀ sg, (s.seg sg).owner = none → (s.sgc sg).line ∈ ([.idle, .foreign, .recovery, .faulted] : List LineState)
  closes : ∀ sg o, (s.seg sg).owner = some o → (s.sgc sg).line = .stopping ∨ (s.port o.port).release ≠ none →
    (s.sgc sg).closing = true
  releasePhase : ∀ p, (s.port p).release ≠ none → (s.port p).phase = .awaitEnd
  idlePhase : ∀ p, (s.port p).idle.running = true →
    (s.port p).phase ∈ ([.opening, .fwdWrite, .fwdRead, .awaitEnd] : List Phase)
  heldPhase : ∀ p, (s.port p).heldAddr ≠ none → (s.port p).phase = .idle ∨ (s.port p).phase = .mgmtWrite

/-! ### Words for statements -/

/-- The bytes of a management message: identifier, arguments, check byte (section 9.3). -/
def messageBytes (id : Byte) (args : List Byte) : List Byte := id :: args ++ [-(byteSum (id :: args))]

/-- The port has handed over this message, and no address byte waits for its reply. -/
def State.asked (s : State) (p : Port) (id : Byte) (args : List Byte) : Prop :=
  (s.port p).handed = some ⟨messageBytes id args, false⟩ ∧ (s.port p).heldAddr = none

/-- The command is answered: the reply is in the port's buffer and no message is in hand. -/
def State.answered (s : State) (p : Port) (st : Status) (payload : List Byte) : State :=
  s.modPort p fun c => { c with reply := ⟨st, payload⟩, handed := none }

/-- The port may take an address byte as a new one: it is IDLE or in DRAIN, or an RS has ended a management read (R160) or
an empty management write (R156); its clock is free, no message is in hand. -/
structure PortCtx.fresh (c : PortCtx) : Prop where
  phase : c.phase = .idle ∨ c.phase = .drain ∨ c.phase = .mgmtRead ∨ c.phase = .mgmtWrite ∧ c.message.bytes = []
  clock : c.sclHeld = false
  message : c.handed = none

/-- A single transaction of the port on one segment, the port owning no other. -/
structure State.single (s : State) (p : Port) (sg : Seg) : Prop where
  owner : (s.seg sg).owner = some ⟨p, .single⟩
  alone : s.ownedBy p = [sg]
  noSet : (s.port p).bset = none

/-- A resolved address byte that gets no ACK and claims nothing (R46, R48): the acknowledge bit is left high, the clock
is released, the phase is IDLE with no route, and both limits are taken (R45). -/
def PortCtx.addressNacked (c : PortCtx) : PortCtx :=
  { c with phase := .idle, route := none, bset := none, sclHeld := false, ack := some .nack, out := none
           hold := ⟨c.holdLimit, false⟩, idle := ⟨c.idleLimit, c.idle.running⟩, heldAddr := none, readPos := none
           withdrawal := none }

/-- A port in the address phase of a transaction (R45, R49, R50, R113): the clock is held, the hold timer runs, both
limits are taken, nothing has been moved. -/
def PortCtx.addressing (phase : Phase) (route : Option Route) (bset : Option (List Member)) (c : PortCtx) : PortCtx :=
  { c with phase := phase, route := route, bset := bset, bytesMoved := 0, abortReported := false, refusalLeft := false
           withdrawal := none, sclHeld := true, out := none, hold := ⟨c.holdLimit, true⟩
           idle := ⟨c.idleLimit, c.idle.running⟩, heldAddr := none, readPos := none }

/-- What a release leaves of a port's transaction (R44): no route, no set, nothing pending, both timers stopped. -/
def PortCtx.ended (phase : Phase) (c : PortCtx) : PortCtx :=
  { c with phase := phase, route := none, bset := none, release := none, hold := ⟨c.hold.limit, false⟩
           idle := ⟨c.idle.limit, false⟩ }

/-- What a release leaves of a segment controller, its line state and bus busy as given (R82, R84, R86). -/
def Sgc.left (line : LineState) (busy : Bool) (c : Sgc) : Sgc :=
  { c with line := line, busBusy := busy, retry := 0, dataDir := none, inHand := none, closing := false
           formingRs := false, nackOut := false, txByte := none }

/-- What a release leaves of a port whose error count is cleared unless an abort was reported (R68). -/
def PortCtx.endedClean (phase : Phase) (c : PortCtx) : PortCtx :=
  { c.ended phase with errCount := if c.abortReported then c.errCount else 0 }

/-- The segment has no owner. -/
def State.disowned (s : State) (sg : Seg) : State := s.modSeg sg fun r => { r with owner := none }

/-- R67: one more byte moved, 65535 at most. -/
def oneMore (n : Word16) : Word16 := if n = 0xFFFF then n else n + 1

/-- An entry of the map that gives the port a route for an address byte: its own visible address, the port in its mask,
the direction allowed, and no lease of another port on the device (R47, steps 4 to 6). -/
structure State.leads (s : State) (p : Port) (b : AddrByte) (e : RouteEntry) : Prop where
  present : e ∈ s.map
  visible : e.visible = b.addr
  port : e.ports.get p = true
  access : (match b.dir with | .write => e.access.write | .read => e.access.read) = true
  unleased : ∀ l ∈ s.leases, l.holder ≠ p → l.covers e.seg (.device e.downstream) = false

/-- Nothing else waits for the segment: no claim in its list, and no broadcast set that holds it PENDING. -/
structure State.unwanted (s : State) (sg : Seg) : Prop where
  list : (s.seg sg).waitList = []
  sets : ∀ q, s.markOf q sg ≠ some .pending

/-- A broadcast of the port may name the segment, leases aside: it is flagged and AVAILABLE (R104). -/
def State.mayReceive (s : State) (sg : Seg) : Bool := (s.sgc sg).broadcastFlag && s.condition sg == .available

/-- R104: the segment belongs to a broadcast set the port forms: no other port has a lease on it. -/
def State.receives (s : State) (p : Port) (sg : Seg) : Bool :=
  s.mayReceive sg && s.leases.all fun l => l.seg != sg || l.holder == p

/-- R114: the segments left out of a broadcast only for a lease of another port, ascending, with the first such lease in
the table. -/
def State.shutOut (s : State) (p : Port) : List (Seg × Byte) :=
  Seg.all.filterMap fun sg =>
    if s.mayReceive sg then (s.leases.find? fun l => l.seg == sg && l.holder != p).map fun l => (sg, l.id) else none

/-- R114: one RESERVED_ELSEWHERE for each segment left out. -/
def State.shutOutRecorded (s : State) (p : Port) (left : List (Seg × Byte)) : State :=
  left.foldl (fun t x => t.writeRecord p ⟨.reservedElsewhere, some 0, some x.1, none, some x.2, .zero⟩) s

/-- The broadcast flag is set on this segment alone. -/
def State.onlyFlagged (s : State) (sg : Seg) : Prop :=
  (s.sgc sg).broadcastFlag = true ∧ ∀ x, x ≠ sg → (s.sgc x).broadcastFlag = false

/-- The first START of an ownership, formed (R76, R77): the settings are loaded and the address is being sent. -/
def Sgc.started (d : Dest) (dir : Dir) (c : Sgc) : Sgc :=
  { c with line := .address, busBusy := false, retry := 0, inHand := some ⟨d, dir⟩, formingRs := false
           activeRate := c.pendingRate, activeStuck := c.pendingStuck }

/-- A begin that has to wait (R76). -/
def Sgc.waits (busy : Bool) (d : Dest) (dir : Dir) (c : Sgc) : Sgc :=
  { c with line := .busWait, busBusy := busy, retry := 0, inHand := some ⟨d, dir⟩ }

/-- The begin of a general call on a segment just acquired (R76, R119). -/
def Sgc.called (low : Bool) (c : Sgc) : Sgc :=
  if c.line = .idle then if low then c.waits false .generalCall .write else c.started .generalCall .write
  else c.waits true .generalCall .write

/-- A close whose STOP is being sent (Table 4-4, PARKED). -/
def Sgc.stops (c : Sgc) : Sgc := { c with line := .stopping, closing := true }

/-- Each PARKED segment the port owns sends its STOP; one that is STOPPING goes on. -/
def State.stopsAll (s : State) (p : Port) : State :=
  { s with sgcs := s.sgcs.mapAll fun sg c => if s.owns p sg && c.line == .parked then c.stops else c }

/-- The port owns something, and all it owns is PARKED, or STOPPING after a drop. -/
def State.ready (s : State) (p : Port) : Prop :=
  s.ownedBy p ≠ [] ∧ ∀ sg, s.owns p sg = true → (s.sgc sg).line = .parked ∨ (s.sgc sg).line = .stopping

/-- R135, R136: the flag is set, each lease is revoked with its record in ascending id, and QUARANTINED ends them. -/
def State.quarantineEntered (s : State) (p : Port) : State :=
  let cleared := { s with leases := s.leases.filter fun l => l.holder != p }.modPort p fun c =>
    { c with quarantined := true, quarantineHeld := false }
  let revoked := (s.leases.filter fun l => l.holder == p).foldl
    (fun t l => t.writeRecord p ⟨.leaseRevoked, none, some l.seg, none, some l.id, .zero⟩) cleared
  revoked.writeRecord p ⟨.quarantined, none, none, none, none, .revoked (s.leases.filter fun l => l.holder == p).length⟩

/-- A broadcast set with one segment dropped (R113). -/
def droppedFrom (set : List Member) (sg : Seg) : List Member :=
  set.map fun m => if m.seg = sg then { m with mark := .dropped } else m

/-- A claim refused in CLAIM (R48, R51): the address is NACKed, the hold timer stops, the port is IDLE with no route. -/
def PortCtx.claimRefused (c : PortCtx) : PortCtx :=
  { c with phase := .idle, route := none, bset := none, sclHeld := false, ack := some .nack, out := none
           hold := ⟨c.hold.limit, false⟩, withdrawal := none }

/-- What a segment that is lost to those who wait for it does to a port, from s to t, the record given by the visible
address it carries. A SINGLE claim is refused (R13, R51), with a lease if the lease covers it (R17). A set that holds the
segment PENDING drops it (R116, R117); where the port's claim stood in this list and nothing else is PENDING, the
acquisition ends (R119), unless its withdrawal is on its way (R118; log entry 32). -/
structure State.turnedAway (s t : State) (sg : Seg) (q : Port) (covered : Addr → Bool)
    (record : Option Addr → RecordBody) : Prop where
  single : ∀ a, covered a = true → ((s.seg sg).waitList.filter fun c => c.port == q) = [⟨q, .device a⟩] →
    (s.port q).bset = none →
    t.port q = (s.port q).claimRefused ∧
    t.log q = (s.writeRecord q (record ((s.port q).route.map (·.visible)))).log q
  pending : ∀ set, (s.port q).bset = some set → markIn set sg = some .pending →
    ((s.seg sg).waitList.filter fun c => c.port == q) = [] →
    t.port q = { s.port q with bset := some (droppedFrom set sg), refusalLeft := true } ∧
    t.log q = (s.writeRecord q (record (some 0))).log q
  claimant : ∀ set, (s.port q).bset = some set → markIn set sg = some .pending →
    ((s.seg sg).waitList.filter fun c => c.port == q) = [⟨q, .generalCall⟩] →
    (∀ x, x ≠ sg → markIn set x ≠ some .pending) →
    t.log q = (s.writeRecord q (record (some 0))).log q ∧
    ((s.port q).withdrawal = none →
      ((∃ x, markIn set x = some .owned) →
        t.port q = { s.port q with phase := .opening, bset := some (droppedFrom set sg), refusalLeft := true }) ∧
      ((∀ x, markIn set x ≠ some .owned) → t.port q = { (s.port q).claimRefused with refusalLeft := true })) ∧
    ((s.port q).withdrawal ≠ none →
      t.port q = { s.port q with bset := some (droppedFrom set sg), refusalLeft := true })

/-- One segment of a broadcast aborted (R120, R122, Table 6-1): the member is DROPPED, an abort is reported, the record
names the segment with the broadcast's count, and the segment is released at once, its controller left as given. -/
def State.memberAborted (s : State) (p : Port) (sg : Seg) (set : List Member) (kind : RecordKind) (d : Detail)
    (f : Sgc → Sgc) : State :=
  (((s.modPort p fun c => { c with bset := some (droppedFrom set sg), abortReported := true }).writeRecord p
    ⟨kind, some 0, some sg, some (s.port p).bytesMoved, none, d⟩).disowned sg).modSgc sg f

/-- What an abort that the segment reports leaves of the port of a single transaction, once the release has taken effect
(Table 7-2, R126): DRAIN, the clock and the data line released, and a byte held at the part's acknowledge NACKed. -/
def PortCtx.cutOff (c : PortCtx) : PortCtx :=
  { c.ended .drain with
    sclHeld := false, out := none, abortReported := true
    ack := if c.phase = .opening ∨ c.phase = .fwdWrite then some .nack else c.ack }

/-- A single transaction aborted by a cause that its segment reports (R126, R127, R129): the record names the route, and the
segment is released at once, its controller left as given. -/
def State.singleAborted (s : State) (p : Port) (r : Route) (kind : RecordKind) (d : Detail) (f : Sgc → Sgc) : State :=
  (((s.modPort p PortCtx.cutOff).writeRecord p
    ⟨kind, some r.visible, some r.seg, some (s.port p).bytesMoved, none, d⟩).disowned r.seg).modSgc r.seg f

/-- A single transaction with its route, and no release pending and no close taken. -/
structure State.underWay (s : State) (p : Port) (r : Route) : Prop where
  alone : s.single p r.seg
  route : (s.port p).route = some r
  release : (s.port p).release = none
  quarantine : (s.port p).quarantineHeld = false
  closing : (s.sgc r.seg).closing = false

/-- The segment is at a byte whose result the port waits for (R52, R55, R59). -/
def State.awaitsByte (s : State) (p : Port) (sg : Seg) : Prop :=
  (s.sgc sg).line = .address ∧ (s.port p).phase = .opening ∨
  (s.sgc sg).line = .write ∧ (s.port p).phase = .fwdWrite ∧ (s.port p).sclHeld = true ∨
  (s.sgc sg).line = .read ∧ (s.port p).phase = .fwdRead

/-- The segment waits for free lines before the START of a begin request or of a retry (R76, R87, R88). -/
def State.awaitsLines (s : State) (sg : Seg) : Prop := (s.sgc sg).line = .busWait ∧ (s.sgc sg).busBusy = false

/-- The record of a cause that comes with the release of a segment (Tables 7-1 and 7-3). -/
def State.causeRecord (s : State) (p : Port) (sg : Seg) (kind : RecordKind) (d : Detail) : RecordBody :=
  ⟨kind, match (s.port p).bset with
    | none => (s.port p).route.map (·.visible)
    | some _ => some 0, some sg, some (s.port p).bytesMoved, none, d⟩

/-- The release of a segment with a cause: the port as given with an abort reported, the record where one is added, the
segment unowned, its controller left as given (R82, R130). -/
def State.causeTaken (s : State) (p : Port) (sg : Seg) (added : Bool) (record : RecordBody) (f : Sgc → Sgc)
    (g : PortCtx → PortCtx) : State :=
  let reported := s.modPort p fun c => { g c with abortReported := true }
  ((if added then reported.writeRecord p record else reported).disowned sg).modSgc sg f

/-- R81: a segment is PARKED only for an owner, as OwnershipOk has it. -/
def State.parkedOwned (s : State) : Prop := ∀ x, (s.seg x).owner = none → (s.sgc x).line ≠ .parked

/-- R130, Table 7-4: an outcome is that of a close of the segment which a cause has ended, by what is pending on the port.
A record is added only where the transaction has left none. The last release has the effect of R44, the error count kept
and a held quarantine entry taken; one that is not the last leaves the port as it was. With nothing pending, a member that
a broadcast has dropped is closed, and the port waits for no result that this one could complete. -/
def State.closeCutShort (s : State) (p : Port) (sg : Seg) (record : RecordBody) (f : Sgc → Sgc)
    (o : Host.Outcome State Fault Refusal) : Prop :=
  let clean := !(s.port p).abortReported && !(s.port p).refusalLeft
  let taken := fun (added : Bool) (g : PortCtx → PortCtx) => s.causeTaken p sg added record f g
  let last := fun (added : Bool) (phase : Phase) =>
    if (s.port p).quarantineHeld then (taken added (PortCtx.ended phase)).quarantineEntered p
    else taken added (PortCtx.ended phase)
  let rows := fun (release : Pending) (added : Bool) (next : State) =>
    (s.port p).release = some release →
      (s.ownedBy p = [sg] → o = .next next) ∧ ((∃ x, x ≠ sg ∧ s.owns p x = true) → o = .next (taken added id))
  (∀ a, rows (.ending (.abort a)) false (last false .drain)) ∧
  rows (.ending .hold) false (last false .idle) ∧
  rows (.ending .stop) clean (last clean .idle) ∧
  (∀ a, rows (.ending (.stopAfterAbort a)) false (last false .idle)) ∧
  (s.parkedOwned → ∀ b,
    rows (.address b none) clean ((last clean .awaitEnd).resolve p b) ∧
    rows (.address b (some .stop)) clean ((last clean .awaitEnd).resolve p b) ∧
    ∀ e, e ≠ .stop → rows (.address b (some e)) false ((last false .awaitEnd).resolve p b)) ∧
  ((s.port p).release = none →
    ((s.port p).phase = .awaitEnd ∨ (s.port p).phase = .fwdWrite ∧ (s.port p).sclHeld = false ∨
      ∃ x, x ≠ sg ∧ s.markOf p x = some .owned ∧ (s.sgc x).line ≠ .parked) → o = .next (taken clean id))

/-- What a stuck line leaves of a segment controller (R89). -/
def Sgc.recovering (owner : Port) (c : Sgc) : Sgc :=
  { c.left .recovery c.busBusy with origin := some (.automatic owner) }

/-- A member of a broadcast at work with no release pending, while another member is OWNED and has its result to give. -/
structure State.memberAtWork (s : State) (p : Port) (sg : Seg) (set : List Member) : Prop where
  owner : (s.seg sg).owner = some ⟨p, .broadcast⟩
  bset : (s.port p).bset = some set
  mark : markIn set sg = some .owned
  release : (s.port p).release = none
  closing : (s.sgc sg).closing = false
  waits : ∃ x, x ≠ sg ∧ markIn set x = some .owned ∧ (s.sgc x).line ≠ .parked

/-- The line states in which a close has something to send (Table 4-4), or the segment is in recovery. -/
def LineState.busy : LineState → Bool
  | .idle | .foreign | .busWait => false
  | .address | .write | .read | .ackHold | .parked | .stopping | .recovery | .faulted => true

/-- The row that carries out a command of the Engine. -/
def engineRow (p : Port) (low : List Seg) (clocked : List Port) : CommandId → Instr
  | .status => .status p low
  | .portSet => .portSet p low
  | .switchReset => .switchReset p ⟨low, clocked⟩
  | .reserve => .reserve p low
  | .renew => .renew p low
  | .release => .release p low
  | .revoke => .revoke p low
  | .leaseList => .leaseList p low
  | .segmentSet => .segmentSet p low
  | .segmentRecover => .segmentRecover p low
  | .mapSet => .mapSet p low
  | .mapClear => .mapClear p low
  | .mapRead => .mapRead p low
  | .portRestore => .portRestore p low
  | .logRead => .logRead p low

/-- An abort's face on the port (R126, R128), with what becomes pending. -/
def PortCtx.abortPending (pend : Ending) (c : PortCtx) : PortCtx :=
  { c with phase := .awaitEnd, release := some (.ending pend), abortReported := true, sclHeld := false, out := none
           hold := ⟨c.hold.limit, false⟩, idle := ⟨c.idle.limit, false⟩ }

end Sys2Proof.Machine
end

