-- ==== Sys2Proof/Certificates/Slice0/Obligations.lean ====
section
/-! DEFINITION. The statements for the provers, by the chapters of the manual: the machine and its resets, the upstream
bus, the segments, the timers, the management commands, the invariants. -/

section

open Sys2Proof Sys2Proof.Machine

/-! ### The machine and device reset -/

/-- One step is the front command carried out on the state with the queue's rest. -/
def Obligations.StepCarriesOutTheFrontCommand : Prop :=
  ∀ (c : Instr) (rest : List Instr) (s : State),
    step { s with pending := c :: rest } = exec c { s with pending := rest }

/-- R2, R26, R27. With an empty queue one millisecond passes for every lease (the model's choice, log entry 4): a count of 2
or more goes down by one, a count that would reach 0 leaves its lease due, and a lease that was due expires, with its
record. -/
def Obligations.EmptyQueuePassesAMillisecond : Prop :=
  ∀ s : State, s.pending = [] →
    let counted := fun l : Lease =>
      if l.remaining.toNat ≤ 1 then { l with due := true } else { l with remaining := l.remaining - 1 }
    ((∀ l ∈ s.leases, l.due = false) → step s = .next { s with leases := s.leases.map counted }) ∧
    (∀ l ∈ s.leases, l.due = true → (∀ m ∈ s.leases, m ≠ l → m.id ≠ l.id ∧ m.due = false) →
      step s = .next (({ s with leases := (s.leases.filter fun m : Lease => m.id != l.id).map counted }).writeRecord
        l.holder ⟨.leaseExpired, none, some l.seg, none, some l.id, .zero⟩))

/-- No command stops the part, and none touches the queue of commands that wait; that DEVICE_RESET leaves it too is the
model's choice (log entry 22). R107, R112, R153, R154: the straps are as the last device reset sampled them, and the route
map changes only by MAP_SET, MAP_CLEAR and device reset. -/
def Obligations.EveryCommandGoesOnAndLeavesTheQueue : Prop :=
  (∀ (c : Instr) (s : State), ∃ t, exec c s = .next t ∧ t.pending = s.pending) ∧
  (∀ (c : Instr) (s t : State), exec c s = .next t → (∀ pulse straps, c ≠ .deviceReset pulse straps) →
    t.straps = s.straps ∧
    ((∀ p low, c ≠ .mapSet p low) → (∀ p low, c ≠ .mapClear p low) → t.map = s.map))

/-- R171, and R19, R69, R97, R112, R140, R151, R165: a full reset gives every piece of state its device-reset value and
samples the straps; a pulse shorter than 1 ms does that or leaves all state unchanged. The queue, the pins of others and
the count of free values are the model's own choice (log entries 8 and 22). Then the values of Tables 3-6 and 4-8 and of
the other tables at device reset. -/
def Obligations.DeviceResetGivesEveryValue : Prop :=
  (∀ (straps : Straps) (s : State),
     exec (.deviceReset .full straps) s =
       .next { State.reset with straps := straps, pending := s.pending, linesLow := s.linesLow, freeCount := s.freeCount } ∧
     ∃ t, exec (.deviceReset .short straps) s = .next t ∧
       (t = { s with freeCount := s.freeCount + 1 } ∨
        t = { State.reset with straps := straps, pending := s.pending, linesLow := s.linesLow
                               freeCount := s.freeCount + 1 })) ∧
  ((∀ p, (State.reset.port p).phase = .idle ∧ (State.reset.port p).route = none ∧ (State.reset.port p).bset = none ∧
     (State.reset.port p).release = none ∧ (State.reset.port p).bytesMoved = 0 ∧
     (State.reset.port p).hold.running = false ∧ (State.reset.port p).idle.running = false ∧
     (State.reset.port p).message = ⟨[], false⟩ ∧ (State.reset.port p).errCount = 0 ∧
     (State.reset.port p).quarantined = false ∧ (State.reset.port p).abortReported = false ∧
     (State.reset.port p).quarantineHeld = false ∧ (State.reset.port p).holdLimit = 20 ∧
     (State.reset.port p).idleLimit = 30 ∧ (State.reset.port p).mask = 0x7E00 ∧
     (State.reset.port p).reply.bytes = [0x01, 0x00, 0xFF] ∧ (State.reset.port p).handed = none) ∧
   (∀ sg, (State.reset.seg sg).owner = none ∧ (State.reset.seg sg).waitList = [] ∧
     (State.reset.sgc sg).line = .foreign ∧ (State.reset.sgc sg).busBusy = true ∧
     (State.reset.sgc sg).activeRate = .khz100 ∧ (State.reset.sgc sg).pendingRate = .khz100 ∧
     (State.reset.sgc sg).activeStuck = 35 ∧ (State.reset.sgc sg).pendingStuck = 35 ∧
     (State.reset.sgc sg).broadcastFlag = false ∧ (State.reset.sgc sg).inHand = none ∧
     (State.reset.sgc sg).dataDir = none ∧ (State.reset.sgc sg).origin = none ∧ (State.reset.sgc sg).retry = 0) ∧
   (∀ p, State.reset.log p = ⟨[], 0, false⟩) ∧ State.reset.map = [])

/-- R40: after a device reset the lease table and every log are empty, the counter is 1, and the first lease granted has
id 1. -/
def Obligations.DeviceResetEmptiesTheLeaseTable : Prop :=
  ∀ (straps : Straps) (s : State), ∃ t, exec (.deviceReset .full straps) s = .next t ∧
    t.leases = [] ∧ t.nextLeaseId = 1 ∧ (∀ p, (t.log p).records = []) ∧
    ∀ p sg target d, (t.newLease p sg target d).id = 1

/-! ### Address bytes -/

/-- R46, R47 steps 1, 2 and 4, R102, R138: silent NACK, with no record: a quarantined port's address other than the
management address, the general call with direction read, an address no entry gives the port. The port is IDLE or in DRAIN,
or an RS has ended a management read (R160) or a management write of no byte (R156), here and in the statements below that
start from a fresh port. -/
def Obligations.UnansweredAddressIsSilentlyNacked : Prop :=
  ∀ (s : State) (p : Port) (b : AddrByte) (low : List Seg), (s.port p).fresh → b.addr ≠ mgmtAddress s.straps →
    ((s.port p).quarantined = true ∨ (b.addr = 0 ∧ b.dir = .read) ∨
      (b.addr ≠ 0 ∧ ∀ e ∈ s.map, e.visible = b.addr → e.ports.get p = false)) →
    exec (.addressByte p b low) s = .next ((s.sampleLines low).modPort p PortCtx.addressNacked)

/-- R30, R47 steps 5 to 7, R48, R105: the direction, a lease of another port, and the condition of the segment, in this
order, refuse an address with a NACK and one record. -/
def Obligations.RefusedAddressLeavesOneRecord : Prop :=
  ∀ (s : State) (p : Port) (b : AddrByte) (low : List Seg) (e : RouteEntry), (s.port p).fresh →
    (s.port p).quarantined = false → MapOk s → LeaseTableOk s →
    e ∈ s.map → e.visible = b.addr → e.ports.get p = true →
    let given := fun r : RecordBody =>
      exec (.addressByte p b low) s =
        .next (((s.sampleLines low).modPort p PortCtx.addressNacked).writeRecord p r)
    (e.access.allows b.dir = false → given ⟨.accessDenied, some b.addr, some e.seg, none, none, .zero⟩) ∧
    (e.access.allows b.dir = true → ∀ l ∈ s.leases, l.holder ≠ p → l.covers e.seg (.device e.downstream) = true →
      given ⟨.reservedElsewhere, some b.addr, some e.seg, none, some l.id, .zero⟩) ∧
    (s.leads p b e → s.condition e.seg ≠ .available →
      given ⟨.segmentUnavailable, some b.addr, some e.seg, none, none, .zero⟩)

/-- R8, R10, R49, R50, R76, R77: a claim for an AVAILABLE, unowned segment is granted at once; the port is OPEN, and the
controller forms its START at once, or waits for the lines or for foreign traffic. -/
def Obligations.ClaimOfFreeSegmentIsGranted : Prop :=
  ∀ (s : State) (p : Port) (b : AddrByte) (low : List Seg) (e : RouteEntry), (s.port p).fresh →
    (s.port p).quarantined = false → MapOk s → s.leads p b e → (s.seg e.seg).owner = none →
    let granted := ((s.sampleLines low).modPort p
        (PortCtx.addressing .opening (some ⟨b.addr, e.seg, e.downstream, b.dir⟩) none)).modSeg e.seg
      fun r => { r with owner := some ⟨p, .single⟩ }
    ((s.sgc e.seg).line = .idle → e.seg ∉ low →
      exec (.addressByte p b low) s = .next (granted.modSgc e.seg (Sgc.started (.device e.downstream) b.dir))) ∧
    ((s.sgc e.seg).line = .idle → e.seg ∈ low →
      exec (.addressByte p b low) s = .next (granted.modSgc e.seg (Sgc.waits false (.device e.downstream) b.dir))) ∧
    ((s.sgc e.seg).line = .foreign →
      exec (.addressByte p b low) s = .next (granted.modSgc e.seg (Sgc.waits true (.device e.downstream) b.dir)))

/-- R7, R8, R49: a claim for an AVAILABLE segment with an owner joins the tail of its wait list. -/
def Obligations.ClaimOfOwnedSegmentJoinsTheTail : Prop :=
  ∀ (s : State) (p : Port) (b : AddrByte) (low : List Seg) (e : RouteEntry) (o : Owner), (s.port p).fresh →
    (s.port p).quarantined = false → MapOk s → s.leads p b e → (s.seg e.seg).owner = some o →
    s.condition e.seg = .available →
    exec (.addressByte p b low) s =
      .next (((s.sampleLines low).modPort p
          (PortCtx.addressing .claim (some ⟨b.addr, e.seg, e.downstream, b.dir⟩) none)).modSeg e.seg
        fun r => { r with waitList := r.waitList ++ [⟨p, .device e.downstream⟩] })

/-- R47 step 3, R153, R155, R160: every port, quarantined or not, gets ACK at the management address, also by an RS in
MGMT_READ or in an empty MGMT_WRITE (R156). -/
def Obligations.ManagementAddressIsAcked : Prop :=
  ∀ (s : State) (p : Port) (b : AddrByte) (low : List Seg), (s.port p).fresh → b.addr = mgmtAddress s.straps →
    (b.dir = .write → exec (.addressByte p b low) s = .next ((s.sampleLines low).modPort p fun c =>
      { c with phase := .mgmtWrite, message := ⟨[], false⟩, ack := some .ack, sclHeld := false, out := none
               hold := ⟨c.holdLimit, c.hold.running⟩, idle := ⟨c.idleLimit, c.idle.running⟩, heldAddr := none
               readPos := none })) ∧
    (b.dir = .read → exec (.addressByte p b low) s = .next ((s.sampleLines low).modPort p fun c =>
      { c with phase := .mgmtRead, ack := some .ack, sclHeld := false, out := some (statusCode c.reply.status)
               hold := ⟨c.holdLimit, c.hold.running⟩, idle := ⟨c.idleLimit, c.idle.running⟩, heldAddr := none
               readPos := some 0 }))

/-- R104, R112 to R115, R119. A general call write whose set is empty is silently NACKed, with one RESERVED_ELSEWHERE for
each segment left out only for a lease of another port, naming the lowest such lease. Else the port takes the segments of
its set in ascending order while they are unowned. The first that is owned is waited for at the tail of its list: the
lower ones are OWNED, with nothing begun on them, the higher ones PENDING. If none is owned the port is OPEN and the
general call is begun on every one. -/
def Obligations.BroadcastIsFormedOrNacked : Prop :=
  (∀ (s : State) (p : Port) (low : List Seg), (s.port p).fresh → (s.port p).quarantined = false →
     ((∀ sg, (s.sgc sg).broadcastFlag = false) →
       exec (.addressByte p ⟨0, .write⟩ low) s = .next ((s.sampleLines low).modPort p PortCtx.addressNacked)) ∧
     (∀ sg, s.onlyFlagged sg → s.condition sg = .available → LeaseTableOk s →
       ∀ l ∈ s.leases, l.seg = sg → l.holder ≠ p →
         (∀ m ∈ s.leases, m.seg = sg → m.holder ≠ p → l.id.toNat ≤ m.id.toNat) →
         exec (.addressByte p ⟨0, .write⟩ low) s =
           .next (((s.sampleLines low).modPort p PortCtx.addressNacked).writeRecord p
             ⟨.reservedElsewhere, some 0, some sg, none, some l.id, .zero⟩)) ∧
     ((∀ sg, s.receives p sg = false) →
       exec (.addressByte p ⟨0, .write⟩ low) s =
         .next (((s.sampleLines low).modPort p PortCtx.addressNacked).shutOutRecorded p (s.shutOut p)))) ∧
  (∀ (s : State) (p : Port) (low : List Seg), (s.port p).fresh → (s.port p).quarantined = false →
     let members := Seg.all.filter (s.receives p)
     let formed := fun (phase : Phase) (mark : Seg → Mark) =>
       ((s.sampleLines low).modPort p fun c =>
         { c.addressing phase none (some (members.map fun x => ⟨x, mark x⟩)) with
           refusalLeft := !(s.shutOut p).isEmpty }).shutOutRecorded p (s.shutOut p)
     let below := fun x w : Seg => s.receives p x && decide ((segCode x).toNat < (segCode w).toNat)
     (∀ w o, s.receives p w = true → (s.seg w).owner = some o → (∀ x, below x w → (s.seg x).owner = none) →
       exec (.addressByte p ⟨0, .write⟩ low) s =
         .next { formed .claim fun x => if below x w then .owned else .pending with
           segs := s.segs.mapAll fun x r =>
             if below x w then { r with owner := some ⟨p, .broadcast⟩ }
             else if x = w then { r with waitList := r.waitList ++ [⟨p, .generalCall⟩] }
             else r }) ∧
     (members ≠ [] →
       (∀ x, s.receives p x = true → (s.seg x).owner = none ∧ ((s.sgc x).line = .idle ∨ (s.sgc x).line = .foreign)) →
       exec (.addressByte p ⟨0, .write⟩ low) s =
         .next { formed .opening fun _ => .owned with
           segs := s.segs.mapAll fun x r => if s.receives p x then { r with owner := some ⟨p, .broadcast⟩ } else r
           sgcs := s.sgcs.mapAll fun x c => if s.receives p x then c.called (low.contains x) else c }))

/-- R61, R81: an address byte after an RS that leads to the segment the port owns as SINGLE keeps it: no claim, bytes
moved kept, RS and the new address sent on. That the line state is ADDRESS from the request on, while the RS is still
being formed, is the model's choice (log entry 35): R81 enters ADDRESS once the RS is formed. -/
def Obligations.RepeatedStartKeepsTheSegment : Prop :=
  ∀ (s : State) (p : Port) (b : AddrByte) (low : List Seg) (e : RouteEntry),
    ((s.port p).phase = .fwdWrite ∨ (s.port p).phase = .awaitEnd) → (s.port p).release = none →
    (s.port p).sclHeld = false → (s.port p).quarantined = false → MapOk s → s.leads p b e →
    (s.seg e.seg).owner = some ⟨p, .single⟩ → (s.sgc e.seg).line = .parked →
    exec (.addressByte p b low) s =
      .next (((s.sampleLines low).modPort p fun c =>
        { c with phase := .opening, route := some ⟨b.addr, e.seg, e.downstream, b.dir⟩, sclHeld := true, out := none
                 hold := ⟨c.holdLimit, true⟩, idle := ⟨c.idleLimit, false⟩ }).modSgc e.seg fun c =>
        { c with line := .address, inHand := some ⟨.device e.downstream, b.dir⟩, retry := 0, dataDir := none
                 formingRs := true, nackOut := false })

/-- R44, R61, R62, R124: an address byte after an RS that does not keep the owned segment (no entry leads to it, the port
is excluded, the direction denied, a lease of another port, a condition, quarantine, or a broadcast) is held, with ADDRESS
pending, while the STOPs of the segments owned are sent. One that arrives while END or ABORT is pending is held in the
same way. R123: one that finds a broadcast with nothing left to release is resolved at once. -/
def Obligations.AddressIsHeldForTheRelease : Prop :=
  ∀ (s : State) (p : Port) (b : AddrByte) (low : List Seg), (s.port p).sclHeld = false →
    (((s.port p).phase = .fwdWrite ∨ (s.port p).phase = .awaitEnd) → (s.port p).release = none →
      s.keptRoute p b = none → s.ready p →
      exec (.addressByte p b low) s =
        .next (((s.sampleLines low).modPort p fun c =>
          { c with phase := .awaitEnd, release := some (.address b none), sclHeld := true, out := none
                   hold := ⟨c.holdLimit, false⟩, idle := ⟨c.idleLimit, false⟩ }).stopsAll p)) ∧
    (∀ e, (s.port p).phase = .awaitEnd → (s.port p).release = some (.ending e) →
      exec (.addressByte p b low) s =
        .next ((s.sampleLines low).modPort p fun c =>
          { c with release := some (.address b (some e)), sclHeld := true, out := none })) ∧
    ((s.port p).phase = .awaitEnd → (s.port p).release = none → s.ownedBy p = [] → (s.port p).quarantineHeld = false →
      exec (.addressByte p b low) s =
        .next (((s.sampleLines low).modPort p fun c => { c.ended .awaitEnd with sclHeld := true }).resolve p b))

/-! ### Data bytes, acknowledges, STOPs and errors on the upstream bus -/

/-- R55 steps 1 and 2, R79, R122: a write byte holds the clock and goes to the segment, or to every segment OWNED in a
broadcast. R48, R60, R131: in IDLE, AWAIT_END and DRAIN the port does not drive its acknowledge, which the model shows as
NACK (log entry 24). R58 steps 3 to 5, R59, R80: a read byte counts, and the master's acknowledge goes to the segment: ACK
reads on with the clock held, NACK parks the segment. -/
def Obligations.UpstreamBytesAreHandedDown : Prop :=
  (∀ (s : State) (p : Port) (b : Byte), (s.port p).sclHeld = false →
     let held := s.modPort p fun c => { c with idle := ⟨c.idle.limit, false⟩, sclHeld := true }
     (∀ sg, (s.port p).phase = .fwdWrite → (s.port p).release = none → s.single p sg → (s.sgc sg).line = .parked →
       (s.sgc sg).dataDir = some .write →
       exec (.dataByte p b) s = .next (held.modSgc sg fun c => { c with line := .write, txByte := some b })) ∧
     (∀ set, (s.port p).phase = .fwdWrite → (s.port p).release = none → (s.port p).bset = some set →
       (∀ x, markIn set x = some .owned → (s.sgc x).line = .parked ∧ (s.sgc x).dataDir = some .write) →
       exec (.dataByte p b) s =
         .next { held with
           sgcs := s.sgcs.mapAll fun x c =>
             if markIn set x = some .owned then { c with line := .write, txByte := some b } else c }) ∧
     ((s.port p).phase = .idle ∨ (s.port p).phase = .awaitEnd ∨ (s.port p).phase = .drain →
       exec (.dataByte p b) s = .next (s.modPort p fun c => { c with ack := some .nack }))) ∧
  (∀ (s : State) (p : Port) (sg : Seg), (s.port p).phase = .fwdRead → (s.port p).sclHeld = false → s.single p sg →
     (s.sgc sg).line = .ackHold →
     exec (.masterAcknowledge p .ack) s =
       .next ((s.modPort p fun c =>
         { c with bytesMoved := oneMore c.bytesMoved, idle := ⟨c.idle.limit, false⟩, sclHeld := true
                  out := none }).modSgc sg fun c => { c with line := .read }) ∧
     exec (.masterAcknowledge p .nack) s =
       .next ((s.modPort p fun c =>
         { c with bytesMoved := oneMore c.bytesMoved, phase := .awaitEnd, out := none }).modSgc sg fun c =>
         { c with line := .parked, dataDir := some .read, nackOut := true }))

/-- R44, R63, R124, R132: a STOP ends a transaction, single or broadcast, with END pending while the STOPs of the segments
owned are sent; in DRAIN it gives IDLE; while ABORT is pending END takes its place; in IDLE it has no effect. R160: in
MGMT_READ it ends the read. R123: a STOP that finds a broadcast with nothing left to release gives IDLE at once; that the
error count is cleared there as for any STOP is the model's reading (log entry 10). -/
def Obligations.UpstreamStopEndsTheTransaction : Prop :=
  ∀ (s : State) (p : Port) (low : List Seg), (s.port p).sclHeld = false →
    (((s.port p).phase = .fwdWrite ∨ (s.port p).phase = .awaitEnd) → (s.port p).release = none → s.ready p →
      exec (.upstreamStop p low) s =
        .next (((s.sampleLines low).modPort p fun c =>
          { c with phase := .awaitEnd, release := some (.ending .stop), hold := ⟨c.hold.limit, false⟩
                   idle := ⟨c.idle.limit, false⟩ }).stopsAll p)) ∧
    ((s.port p).phase = .awaitEnd → (s.port p).release = none → s.ownedBy p = [] → (s.port p).quarantineHeld = false →
      exec (.upstreamStop p low) s = .next ((s.sampleLines low).modPort p (PortCtx.endedClean .idle))) ∧
    ((s.port p).phase = .drain →
      exec (.upstreamStop p low) s = .next ((s.sampleLines low).modPort p fun c => { c with phase := .idle })) ∧
    ((s.port p).phase = .mgmtRead →
      exec (.upstreamStop p low) s =
        .next ((s.sampleLines low).modPort p fun c => { c with phase := .idle, readPos := none, out := none })) ∧
    (∀ a, (s.port p).phase = .awaitEnd → (s.port p).release = some (.ending (.abort a)) →
      exec (.upstreamStop p low) s =
        .next ((s.sampleLines low).modPort p fun c => { c with release := some (.ending (.stopAfterAbort a)) })) ∧
    ((s.port p).phase = .idle → exec (.upstreamStop p low) s = .next (s.sampleLines low))

/-- R68, R124, R126, R128, R133, R135: an upstream bus error in a forwarded transaction adds one to the count, writes
ABORT_UPSTREAM_ERROR with the bytes moved, naming the segment unless it is a broadcast, and closes what the port owns; a
STOP leaves END pending, a START ABORT; the error that brings the count to 4 is held for the release. R134, Table 7-5:
with ABORT pending it only counts, and a STOP puts END in its place; once the count is 4 it does not even count. In a
broadcast that owns nothing the transaction is over at once, with quarantine entered if the count comes to 4; that the port
is in DRAIN after a START until its address byte is the model's reading (log entry 33). -/
def Obligations.UpstreamErrorAbortsTheTransaction : Prop :=
  (∀ (s : State) (p : Port) (seen : BusCondition) (pos : BitPosition) (low : List Seg),
     (s.port p).release = none → (s.port p).sclHeld = false → (s.port p).errCount ≤ 3 → (s.port p).quarantined = false →
     let pend : Ending := match seen with
       | .stop => .stopAfterAbort .cause
       | .start => .abort .cause
     let after := fun (moved : Word16) (visible : Addr) (sg : Option Seg) =>
       ((s.sampleLines low).modPort p fun c =>
         { c.abortPending pend with errCount := c.errCount + 1, bytesMoved := moved
                                    quarantineHeld := c.quarantineHeld || c.errCount == 3 }).writeRecord p
         ⟨.abortUpstreamError, some visible, sg, some moved, none, .zero⟩
     (∀ r : Route, (s.port p).route = some r → s.single p r.seg →
       (((s.port p).phase = .fwdWrite ∨ (s.port p).phase = .awaitEnd) → (s.sgc r.seg).line = .parked →
         exec (.upstreamBusError p seen pos low) s =
           .next ((after (s.port p).bytesMoved r.visible (some r.seg)).modSgc r.seg Sgc.stops)) ∧
       ((s.port p).phase = .fwdRead → (s.sgc r.seg).line = .ackHold →
         exec (.upstreamBusError p seen pos low) s =
           .next ((after (match pos with
               | .beforeEighth => (s.port p).bytesMoved
               | .afterEighth => oneMore (s.port p).bytesMoved) r.visible (some r.seg)).modSgc r.seg fun c =>
             { c.stops with nackOut := true }))) ∧
     (((s.port p).phase = .fwdWrite ∨ (s.port p).phase = .awaitEnd) → (s.port p).bset ≠ none → s.ready p →
       exec (.upstreamBusError p seen pos low) s = .next ((after (s.port p).bytesMoved 0 none).stopsAll p)) ∧
     ((s.port p).phase = .awaitEnd → (s.port p).bset ≠ none → s.ownedBy p = [] → (s.port p).quarantineHeld = false →
       let ended := ((s.sampleLines low).modPort p fun c =>
         { c.ended (match seen with
             | .stop => .idle
             | .start => .drain) with
           errCount := c.errCount + 1, abortReported := true, out := none }).writeRecord p
         ⟨.abortUpstreamError, some 0, none, some (s.port p).bytesMoved, none, .zero⟩
       exec (.upstreamBusError p seen pos low) s =
         .next (if (s.port p).errCount = 3 then ended.quarantineEntered p else ended))) ∧
  (∀ (s : State) (p : Port) (seen : BusCondition) (pos : BitPosition) (low : List Seg) (a : AbortSetter),
     (s.port p).phase = .awaitEnd → (s.port p).release = some (.ending (.abort a)) → (s.port p).sclHeld = false →
     s.ownedBy p ≠ [] → (s.port p).quarantined = false →
     let pend : Ending := match seen with
       | .stop => .stopAfterAbort a
       | .start => .abort a
     ((s.port p).errCount ≤ 3 →
       exec (.upstreamBusError p seen pos low) s =
         .next ((s.sampleLines low).modPort p fun c =>
           { c with release := some (.ending pend), errCount := c.errCount + 1
                    quarantineHeld := c.quarantineHeld || c.errCount == 3 })) ∧
     ((s.port p).errCount = 4 →
       exec (.upstreamBusError p seen pos low) s =
         .next ((s.sampleLines low).modPort p fun c => { c with release := some (.ending pend) })))

/-- R135, R136, R39: the error that brings the count to 4 in DRAIN, where the port owns nothing, enters quarantine at
once: the flag, one LEASE_REVOKED for each lease in ascending id, then QUARANTINED with their number. -/
def Obligations.FourthErrorQuarantinesAPortThatOwnsNothing : Prop :=
  ∀ (s : State) (p : Port) (seen : BusCondition) (pos : BitPosition) (low : List Seg),
    (s.port p).phase = .drain → (s.port p).sclHeld = false → (s.port p).errCount = 3 →
    (s.port p).quarantined = false → s.ownedBy p = [] →
    let cleared := (({ s.sampleLines low with leases := s.leases.filter fun l => l.holder != p }).modPort p fun c =>
      { c with errCount := 4, quarantined := true, quarantineHeld := false
               phase := match seen with
                 | .stop => .idle
                 | .start => .drain })
    let revoked := (s.leases.filter fun l => l.holder == p).foldl
      (fun t l => t.writeRecord p ⟨.leaseRevoked, none, some l.seg, none, some l.id, .zero⟩) cleared
    exec (.upstreamBusError p seen pos low) s =
      .next (revoked.writeRecord p ⟨.quarantined, none, none, none, none,
        .revoked (s.leases.filter fun l => l.holder == p).length⟩)

/-- R134, R156: an error in a management phase adds one to the count, discards the message or cuts the read, and leaves
the reply and every log as they were; after a STOP the phase is IDLE. In DRAIN it only counts. R135, R136: the one that
brings the count to 4 also enters quarantine at once, as the port owns nothing; a port whose count is 4 keeps it and is
not entered again. That after a START a management phase stays until the address byte is the model's reading (log entry
13). -/
def Obligations.ErrorCutsAManagementPhase : Prop :=
  ∀ (s : State) (p : Port) (seen : BusCondition) (pos : BitPosition) (low : List Seg), (s.port p).sclHeld = false →
    let after := fun (stays : Phase) (c : PortCtx) =>
      { c with phase := match seen with
                 | .stop => .idle
                 | .start => stays }
    let counted := fun f : PortCtx → PortCtx => fun c : PortCtx =>
      { f c with errCount := if c.errCount = 4 then 4 else c.errCount + 1 }
    ((s.port p).errCount ≤ 2 ∨ (s.port p).errCount = 4 →
      ((s.port p).phase = .mgmtWrite ∨ (s.port p).phase = .mgmtRead →
        exec (.upstreamBusError p seen pos low) s =
          .next ((s.sampleLines low).modPort p (counted fun c =>
            { after c.phase c with message := ⟨[], false⟩, readPos := none, out := none }))) ∧
      ((s.port p).phase = .drain →
        exec (.upstreamBusError p seen pos low) s = .next ((s.sampleLines low).modPort p (counted (after .drain))))) ∧
    ((s.port p).errCount = 3 → (s.port p).quarantined = false → s.ownedBy p = [] →
      ((s.port p).phase = .mgmtWrite ∨ (s.port p).phase = .mgmtRead) →
      exec (.upstreamBusError p seen pos low) s =
        .next (((s.sampleLines low).modPort p (counted fun c =>
          { after c.phase c with message := ⟨[], false⟩, readPos := none, out := none })).quarantineEntered p))

/-- R155: bytes 1 to 16 are stored and ACKed; every later byte is NACKed, not stored, and sets the overlong mark. R156: a
write with bytes hands its message over, by STOP or RS, and the port is IDLE; a STOP after no byte takes no command. -/
def Obligations.ManagementWriteIsStoredAndHandedOver : Prop :=
  (∀ (s : State) (p : Port) (b : Byte), (s.port p).phase = .mgmtWrite →
     ((s.port p).message.bytes.length < 16 →
       exec (.mgmtDataByte p b) s = .next (s.modPort p fun c =>
         { c with message := ⟨c.message.bytes ++ [b], c.message.overlong⟩, ack := some .ack })) ∧
     (16 ≤ (s.port p).message.bytes.length →
       exec (.mgmtDataByte p b) s = .next (s.modPort p fun c =>
         { c with message := ⟨c.message.bytes, true⟩, ack := some .nack }))) ∧
  (∀ (s : State) (p : Port), (s.port p).phase = .mgmtWrite →
     ((s.port p).message.bytes ≠ [] → ∀ seen,
       exec (.managementWriteEnd p seen) s = .next (s.modPort p fun c =>
         { c with phase := .idle, handed := some c.message, message := ⟨[], false⟩ })) ∧
     ((s.port p).message.bytes = [] →
       exec (.managementWriteEnd p .stop) s = .next (s.modPort p fun c => { c with phase := .idle })))

/-- R160: after ACK the next byte of the reply is presented, none past the check byte; after NACK nothing is. R159, R168,
Table 10-3: the bytes of a reply are the status code, the payload length, the payload, and the check byte that makes their
8-bit sum zero. -/
def Obligations.ReplyIsReadByteByByte : Prop :=
  (∀ (s : State) (p : Port) (n : Nat), (s.port p).phase = .mgmtRead → (s.port p).readPos = some n →
     exec (.mgmtReadAcknowledge p .ack) s = .next (s.modPort p fun c =>
       { c with readPos := some (n + 1), out := c.reply.bytes[n + 1]? }) ∧
     exec (.mgmtReadAcknowledge p .nack) s = .next (s.modPort p fun c => { c with readPos := none, out := none })) ∧
  (∀ r : Reply, ∃ check : Byte,
     let code : Byte := match r.status with
       | .ok => 0x00
       | .noReply => 0x01
       | .badLength => 0x10
       | .badCheck => 0x11
       | .unknownCommand => 0x12
       | .badArgument => 0x13
       | .denied => 0x14
       | .busy => 0x20
       | .conflict => 0x21
       | .alreadyHeld => 0x22
       | .tableFull => 0x23
       | .notFound => 0x24
     r.bytes = code :: BitVec.ofNat 8 r.payload.length :: r.payload ++ [check] ∧ r.bytes.foldl (· + ·) 0 = 0)

/-! ### The segments -/

/-- R76, R77: with bus busy clear and both lines high a waiting controller forms its START; the settings are loaded
unless an attempt of this address phase was lost before. -/
def Obligations.StartIsFormedWhenTheLinesAreFree : Prop :=
  ∀ (s : State) (sg : Seg), (s.sgc sg).line = .busWait → (s.sgc sg).busBusy = false →
    ((s.sgc sg).retry = 0 →
      exec (.startFormed sg) s = .next (s.modSgc sg fun c =>
        { c with line := .address, formingRs := false, activeRate := c.pendingRate, activeStuck := c.pendingStuck })) ∧
    ((s.sgc sg).retry ≠ 0 →
      exec (.startFormed sg) s = .next (s.modSgc sg fun c => { c with line := .address, formingRs := false }))

/-- R53, R78: the target's acknowledge of the address byte is relayed to the owner's master, and the phase and line
state follow the result and the direction. Table 4-4: within a close the result is discarded, the port is not touched,
and STOP follows, after one byte read where the target will drive. R52: an abort cause as the address result does, in
ADDRESS, what the command of that cause does there; that the two rows have one effect is the model's reading (log entry
19). -/
def Obligations.AddressAcknowledgeIsRelayed : Prop :=
  (∀ (s : State) (p : Port) (sg : Seg) (low : List Seg) (d : Dest), (s.seg sg).owner = some ⟨p, .single⟩ →
     (s.sgc sg).line = .address → (s.sgc sg).closing = false →
     let relayed := fun (phase : Phase) (a : AckBit) (held idle : Bool) (f : Sgc → Sgc) =>
       (((s.sampleLines low).modPort p fun c =>
         { c with phase := phase, ack := some a, out := none, sclHeld := held, hold := ⟨c.hold.limit, false⟩
                  idle := ⟨c.idle.limit, idle || c.idle.running⟩ }).modSgc sg fun c =>
         f { c with inHand := none, formingRs := false })
     ((s.sgc sg).inHand = some ⟨d, .write⟩ →
       exec (.addressResult sg .ack low) s =
         .next (relayed .fwdWrite .ack false true fun c => { c with line := .parked, dataDir := some .write })) ∧
     ((s.sgc sg).inHand = some ⟨d, .read⟩ →
       exec (.addressResult sg .ack low) s =
         .next (relayed .fwdRead .ack true false fun c => { c with line := .read, dataDir := some .read })) ∧
     exec (.addressResult sg .nack low) s =
       .next (relayed .awaitEnd .nack false true fun c => { c with line := .parked })) ∧
  (∀ (s : State) (sg : Seg) (low : List Seg) (d : Dest), (s.sgc sg).line = .address → (s.sgc sg).closing = true →
     let discarded := fun f : Sgc → Sgc =>
       (s.sampleLines low).modSgc sg fun c => f { c with inHand := none, formingRs := false }
     ((s.sgc sg).inHand = some ⟨d, .write⟩ →
       exec (.addressResult sg .ack low) s =
         .next (discarded fun c => { c with line := .stopping, dataDir := some .write })) ∧
     ((s.sgc sg).inHand = some ⟨d, .read⟩ →
       exec (.addressResult sg .ack low) s =
         .next (discarded fun c => { c with line := .read, dataDir := some .read })) ∧
     exec (.addressResult sg .nack low) s = .next (discarded fun c => { c with line := .stopping })) ∧
  (∀ (s : State) (sg : Seg) (low : List Seg), (s.sgc sg).line = .address →
     exec (.addressResult sg .lost low) s = exec (.arbitrationLoss sg .bit low) s ∧
     exec (.addressResult sg (.stuck .scl) low) s = exec (.stuckScl sg low) s ∧
     exec (.addressResult sg (.stuck .sda) low) s = exec (.stuckSda sg low) s ∧
     exec (.addressResult sg (.busError .start) low) s = exec (.startSeen sg low) s ∧
     exec (.addressResult sg (.busError .stop) low) s = exec (.stopSeen sg low) s)

/-- R55 steps 3 and 4, R79: the target's acknowledge of a write byte is relayed; an acknowledged byte counts. R57, R80: a
read byte is held in ACK_HOLD and presented upstream with the clock released. Table 4-4: within a close the result of a
write byte is discarded and STOP follows; a read byte is discarded, NACKed and followed by STOP. R55: an abort cause as the
byte result does, in WRITE, what the command of that cause does there; that the two rows have one effect is the model's
reading (log entry 19). -/
def Obligations.SegmentBytesAreRelayedUpstream : Prop :=
  (∀ (s : State) (p : Port) (sg : Seg) (low : List Seg), (s.seg sg).owner = some ⟨p, .single⟩ →
     (s.sgc sg).line = .write → (s.sgc sg).closing = false →
     exec (.byteResult sg .ack low) s =
       .next (((s.sampleLines low).modPort p fun c =>
         { c with sclHeld := false, ack := some .ack, out := none, idle := ⟨c.idle.limit, true⟩
                  bytesMoved := oneMore c.bytesMoved }).modSgc sg fun c => { c with line := .parked, txByte := none }) ∧
     exec (.byteResult sg .nack low) s =
       .next (((s.sampleLines low).modPort p fun c =>
         { c with sclHeld := false, ack := some .nack, out := none, idle := ⟨c.idle.limit, true⟩ }).modSgc sg fun c =>
         { c with line := .parked, txByte := none })) ∧
  (∀ (s : State) (p : Port) (sg : Seg) (b : Byte), (s.seg sg).owner = some ⟨p, .single⟩ → (s.sgc sg).line = .read →
     ((s.sgc sg).closing = false →
       exec (.readByte sg b) s =
         .next ((s.modPort p fun c => { c with sclHeld := false, out := some b, idle := ⟨c.idle.limit, true⟩ }).modSgc sg
           fun c => { c with line := .ackHold })) ∧
     ((s.sgc sg).closing = true →
       exec (.readByte sg b) s = .next (s.modSgc sg fun c => { c with line := .stopping, nackOut := true }))) ∧
  (∀ (s : State) (sg : Seg) (low : List Seg), (s.sgc sg).line = .write →
     ((s.sgc sg).closing = true → ∀ a : ByteOutcome, a = .ack ∨ a = .nack →
       exec (.byteResult sg a low) s =
         .next ((s.sampleLines low).modSgc sg fun c => { c with line := .stopping, txByte := none })) ∧
     exec (.byteResult sg .lost low) s = exec (.arbitrationLoss sg .bit low) s ∧
     exec (.byteResult sg (.stuck .scl) low) s = exec (.stuckScl sg low) s ∧
     exec (.byteResult sg (.stuck .sda) low) s = exec (.stuckSda sg low) s ∧
     exec (.byteResult sg (.busError .start) low) s = exec (.startSeen sg low) s ∧
     exec (.byteResult sg (.busError .stop) low) s = exec (.stopSeen sg low) s)

/-- R120, R122, R123: a broadcast gives its upstream acknowledge once every OWNED member has given its result. A result
that is not the last one waits, a NACK dropping its member and closing it from PARKED with no record. With the last the
upstream acknowledge is ACK if a member is still OWNED: the address gives FWD_WRITE, and a byte counts once. A NACK by the
last OWNED member gives NACK, and the port goes on in AWAIT_END. -/
def Obligations.BroadcastResultsAreCollected : Prop :=
  ∀ (s : State) (p : Port) (sg : Seg) (low : List Seg) (set : List Member),
    (s.seg sg).owner = some ⟨p, .broadcast⟩ → (s.port p).bset = some set → markIn set sg = some .owned →
    (s.port p).release = none → (s.sgc sg).closing = false →
    let others := ∃ x, x ≠ sg ∧ markIn set x = some .owned
    let last := ∀ x, x ≠ sg → markIn set x = some .owned → (s.sgc x).line = .parked
    let dropped := fun t : State => (t.modSgc sg Sgc.stops).modPort p fun c => { c with bset := some (droppedFrom set sg) }
    ((s.sgc sg).line = .address → (s.sgc sg).inHand = some ⟨.generalCall, .write⟩ → (s.port p).phase = .opening →
      let sent := (s.sampleLines low).modSgc sg fun c =>
        { c with line := .parked, dataDir := some .write, inHand := none, formingRs := false }
      let refused := dropped ((s.sampleLines low).modSgc sg fun c => { c with inHand := none, formingRs := false })
      let given := fun c : PortCtx =>
        { c with phase := .fwdWrite, ack := some .ack, out := none, sclHeld := false, hold := ⟨c.hold.limit, false⟩
                 idle := ⟨c.idle.limit, true⟩ }
      (¬ last → exec (.addressResult sg .ack low) s = .next sent ∧ exec (.addressResult sg .nack low) s = .next refused) ∧
      (last → exec (.addressResult sg .ack low) s = .next (sent.modPort p given)) ∧
      (last → others → exec (.addressResult sg .nack low) s = .next (refused.modPort p given)) ∧
      (¬ others → exec (.addressResult sg .nack low) s = .next (refused.modPort p fun c =>
        { c with phase := .awaitEnd, ack := some .nack, out := none, sclHeld := false
                 hold := ⟨c.hold.limit, false⟩ }))) ∧
    ((s.sgc sg).line = .write → (s.port p).phase = .fwdWrite → (s.port p).sclHeld = true →
      let sent := (s.sampleLines low).modSgc sg fun c => { c with line := .parked, txByte := none }
      let given := fun c : PortCtx =>
        { c with sclHeld := false, ack := some .ack, out := none, idle := ⟨c.idle.limit, true⟩
                 bytesMoved := oneMore c.bytesMoved }
      (¬ last → exec (.byteResult sg .ack low) s = .next sent ∧
        exec (.byteResult sg .nack low) s = .next (dropped sent)) ∧
      (last → exec (.byteResult sg .ack low) s = .next (sent.modPort p given)) ∧
      (last → others → exec (.byteResult sg .nack low) s = .next ((dropped sent).modPort p given)) ∧
      (¬ others → exec (.byteResult sg .nack low) s = .next ((dropped sent).modPort p fun c =>
        { c with phase := .awaitEnd, sclHeld := false, ack := some .nack, out := none })))

/-- R12, R52, R54, R55, R59, R87 to R89, R126 to R129. A line stuck in a single transaction with no close taken aborts it:
the clock in a byte of OPEN, FWD_WRITE or FWD_READ or before a START, the data line before a START or an RS. ABORT_STUCK
has the bytes moved, the address or byte held is NACKed and the lines released, the segment is in RECOVERY and unowned,
the port in DRAIN. R130, Table 7-4: a line stuck within a close, single or broadcast, ends it as the release, with
ABORT_STUCK only where the transaction has left no record; the error count is not cleared. R120, R122: a line stuck on one
segment of a broadcast drops that member alone, and the others go on. That bus busy stays as it was at the entry into
RECOVERY, that a refusal record silences the second one, and that a member dropped and being closed adds one, are the
model's reading (log entries 21 and 11), and the line state ADDRESS while the RS is formed its choice (log entry 35). -/
def Obligations.StuckLinesAbortTheTransaction : Prop :=
  (∀ (s : State) (p : Port) (low : List Seg) (r : Route), s.underWay p r → s.unwanted r.seg →
     let aborted := fun d : Detail =>
       Host.Outcome.next (φ := Fault) (ρ := Refusal)
         ((s.sampleLines low).singleAborted p r .abortStuck d (Sgc.recovering p))
     (s.awaitsByte p r.seg ∨ s.awaitsLines r.seg ∧ (s.port p).phase = .opening →
       exec (.stuckScl r.seg low) s = aborted .stuckScl) ∧
     ((s.port p).phase = .opening →
       s.awaitsLines r.seg ∨ (s.sgc r.seg).line = .address ∧ (s.sgc r.seg).formingRs = true →
       exec (.stuckSda r.seg low) s = aborted .stuckSda)) ∧
  (∀ (s : State) (p : Port) (k : OwnerKind) (sg : Seg) (low : List Seg), (s.seg sg).owner = some ⟨p, k⟩ →
     (s.sgc sg).closing = true → s.unwanted sg →
     let ended := fun (d : Detail) (o : Host.Outcome State Fault Refusal) =>
       (s.sampleLines low).closeCutShort p sg (s.causeRecord p sg .abortStuck d) (Sgc.recovering p) o
     ((s.sgc sg).line = .address ∨ (s.sgc sg).line = .write ∨ (s.sgc sg).line = .read ∨ (s.sgc sg).line = .stopping →
       ended .stuckScl (exec (.stuckScl sg low) s)) ∧
     ((s.sgc sg).line = .stopping ∨ (s.sgc sg).line = .address ∧ (s.sgc sg).formingRs = true →
       ended .stuckSda (exec (.stuckSda sg low) s))) ∧
  (∀ (s : State) (p : Port) (sg : Seg) (set : List Member) (low : List Seg), s.memberAtWork p sg set → s.unwanted sg →
     let aborted := fun d : Detail =>
       Host.Outcome.next (φ := Fault) (ρ := Refusal)
         ((s.sampleLines low).memberAborted p sg set .abortStuck d (Sgc.recovering p))
     ((s.sgc sg).line = .address ∨ (s.sgc sg).line = .write ∨ s.awaitsLines sg →
       exec (.stuckScl sg low) s = aborted .stuckScl) ∧
     (s.awaitsLines sg → exec (.stuckSda sg low) s = aborted .stuckSda))

/-- R12, R13, R51, R87 to R89, R116: wherever stuck SCL or stuck SDA is detected, the segment ends in RECOVERY with the
origin AUTOMATIC that names its owner, unowned, its wait list empty; and every other port that waited for it is turned
away, with one SEGMENT_UNAVAILABLE record; that a broadcast whose withdrawal is on its way then waits for its arrival is
the model's choice (log entry 32). -/
def Obligations.StuckDetectionFlushesTheWaitList : Prop :=
  ∀ (s : State) (sg : Seg) (low : List Seg) (o : Owner), (s.seg sg).owner = some o →
    let recovering := fun t : State =>
      (t.seg sg).owner = none ∧ (t.seg sg).waitList = [] ∧ (t.sgc sg).line = .recovery ∧
        (t.sgc sg).origin = some (.automatic o.port) ∧
        ∀ q, q ≠ o.port → s.turnedAway t sg q (fun _ => true) fun v =>
          ⟨.segmentUnavailable, v, some sg, none, none, .zero⟩
    ((s.sgc sg).line = .address ∨ (s.sgc sg).line = .write ∨ (s.sgc sg).line = .read ∨ (s.sgc sg).line = .stopping ∨
        ((s.sgc sg).line = .busWait ∧ (s.sgc sg).busBusy = false) →
      ∃ t, exec (.stuckScl sg low) s = .next t ∧ recovering t) ∧
    ((s.sgc sg).line = .stopping ∨ ((s.sgc sg).line = .address ∧ (s.sgc sg).formingRs = true) ∨
        ((s.sgc sg).line = .busWait ∧ (s.sgc sg).busBusy = false) →
      ∃ t, exec (.stuckSda sg low) s = .next t ∧ recovering t)

/-- R90, R91: a recovery whose clock comes free, whose data line reads high at once or after a pulse up to the ninth, and
whose STOP is done, gives IDLE; an automatic one writes no record, one by command RECOVERY_DONE. -/
def Obligations.RecoverySucceeds : Prop :=
  ∀ (s : State) (sg : Seg) (seen : RecoveryLines), (s.sgc sg).line = .recovery → seen.clockFreed = true →
    (seen.dataHigh = true ∨ ∃ n, n ≤ 8 ∧ seen.pulses = List.replicate n ⟨true, false⟩ ++ [⟨true, true⟩]) →
    seen.stopClock = true → seen.stopData = true →
    let recovered := s.modSgc sg fun c => { c with line := .idle, busBusy := false, origin := none, freeCheck := false }
    (∀ q, (s.sgc sg).origin = some (.automatic q) → exec (.recoverySuccess sg seen) s = .next recovered) ∧
    (∀ q, (s.sgc sg).origin = some (.command q) →
      exec (.recoverySuccess sg seen) s =
        .next (recovered.writeRecord q ⟨.recoveryDone, none, some sg, none, none, .success⟩))

/-- R32, R90, R92: a recovery whose clock is never freed fails with stuck SCL, one whose data line is low after nine
pulses with stuck SDA. The segment is FAULTED; the port of the origin gets its record, and every other holder of a lease
on the segment one SEGMENT_FAULT; nothing else changes. -/
def Obligations.RecoveryFails : Prop :=
  ∀ (s : State) (sg : Seg) (seen : RecoveryLines) (d : Detail), (s.sgc sg).line = .recovery → s.unwanted sg →
    (seen.clockFreed = false ∧ d = .stuckScl ∨
      seen.clockFreed = true ∧ seen.dataHigh = false ∧ seen.pulses = List.replicate 9 ⟨true, false⟩ ∧ d = .stuckSda) →
    ∀ (q : Port) (own : RecordBody),
      ((s.sgc sg).origin = some (.automatic q) ∧ own = ⟨.segmentFault, none, some sg, none, none, d⟩ ∨
        (s.sgc sg).origin = some (.command q) ∧ own = ⟨.recoveryDone, none, some sg, none, none, .failed⟩) →
      ∃ t, exec (.recoveryFailure sg seen) s = .next t ∧
        { t with logs := s.logs } = s.modSgc sg (fun c => { c with line := .faulted, origin := none }) ∧
        t.log q = (s.writeRecord q own).log q ∧
        ∀ p, p ≠ q →
          ((∃ l ∈ s.leases, l.seg = sg ∧ l.holder = p) →
            t.log p = (s.writeRecord p ⟨.segmentFault, none, some sg, none, none, d⟩).log p) ∧
          ((∀ l ∈ s.leases, l.seg = sg → l.holder ≠ p) → t.log p = s.log p)

/-- R73, R74, R76, R77, R97, R98. A passed bus-free check ends FOREIGN, and the RECOVERY or FAULTED that a switch reset has
left; in BUS_WAIT it lets the START form, with the settings loaded unless an attempt was lost before. Table 4-3: what a
START or a STOP that the part did not form does where the part is not master; that a STOP is followed so before the
bus-free check of a device reset has passed is the model's choice (log entry 30). -/
def Obligations.ForeignTrafficIsFollowed : Prop :=
  (∀ (s : State) (sg : Seg),
     ((s.sgc sg).line = .foreign →
       exec (.busFreeCheck sg) s = .next (s.modSgc sg fun c => { c with line := .idle, busBusy := false })) ∧
     ((s.sgc sg).line = .recovery ∨ (s.sgc sg).line = .faulted → (s.sgc sg).freeCheck = true →
       exec (.busFreeCheck sg) s =
         .next (s.modSgc sg fun c => { c with line := .idle, busBusy := false, freeCheck := false })) ∧
     ((s.sgc sg).line = .busWait → (s.sgc sg).busBusy = true → (s.sgc sg).retry ≠ 0 →
       exec (.busFreeCheck sg) s =
         .next (s.modSgc sg fun c => { c with line := .address, busBusy := false, formingRs := false })) ∧
     ((s.sgc sg).line = .busWait → (s.sgc sg).busBusy = true → (s.sgc sg).retry = 0 →
       exec (.busFreeCheck sg) s =
         .next (s.modSgc sg fun c =>
           { c with line := .address, busBusy := false, formingRs := false, activeRate := c.pendingRate
                    activeStuck := c.pendingStuck }))) ∧
  (∀ (s : State) (sg : Seg) (low : List Seg),
     let after := fun f : Sgc → Sgc => Host.Outcome.next (φ := Fault) (ρ := Refusal) ((s.sampleLines low).modSgc sg f)
     ((s.sgc sg).line = .idle ∨ (s.sgc sg).line = .foreign →
       exec (.startSeen sg low) s = after fun c => { c with line := .foreign, busBusy := true }) ∧
     ((s.sgc sg).line = .busWait ∨ (s.sgc sg).line = .recovery ∨ (s.sgc sg).line = .faulted →
       exec (.startSeen sg low) s = after fun c => { c with busBusy := true }) ∧
     ((s.sgc sg).line = .foreign →
       exec (.stopSeen sg low) s = after fun c => { c with line := .idle, busBusy := false }) ∧
     ((s.sgc sg).line = .recovery ∨ (s.sgc sg).line = .faulted →
       exec (.stopSeen sg low) s = after fun c => { c with busBusy := false }) ∧
     ((s.sgc sg).line = .busWait → (s.sgc sg).retry ≠ 0 →
       exec (.stopSeen sg low) s = after fun c => { c with line := .address, busBusy := false, formingRs := false }) ∧
     ((s.sgc sg).line = .busWait → (s.sgc sg).retry = 0 →
       exec (.stopSeen sg low) s = after fun c =>
         { c with line := .address, busBusy := false, formingRs := false, activeRate := c.pendingRate
                  activeStuck := c.pendingStuck }) ∧
     ((s.sgc sg).line = .idle → exec (.stopSeen sg low) s = .next (s.sampleLines low)))

/-- R52, R55, R59, R86, R126 to R129: a condition seen in a byte of a single transaction with no close taken, in OPEN,
FWD_WRITE or FWD_READ, NACKs the address or byte held, writes ABORT_DOWNSTREAM_ERROR and releases the segment at once with
no STOP, FOREIGN after a START and IDLE after a STOP; the port is in DRAIN. R12, R130, Table 7-4: a condition seen within a
close, the STOP included, ends it as the release, with the record only where the transaction has left none; that a refusal
record silences it, and that a member dropped and being closed adds one, are the model's reading (log entry 11), and the
line state ADDRESS while an RS is formed its choice (log entry 35). R120,
R122, Table 6-1: on one segment of a broadcast it drops that member alone, with a record that names the segment; the
others go on, and where every other result is in, the byte is acknowledged upstream. -/
def Obligations.DownstreamErrorAborts : Prop :=
  (∀ (s : State) (p : Port) (low : List Seg) (r : Route), s.underWay p r → s.awaitsByte p r.seg →
     (s.seg r.seg).waitList = [] →
     let aborted := (s.sampleLines low).singleAborted p r .abortDownstreamError .zero
     exec (.startSeen r.seg low) s = .next (aborted (Sgc.left .foreign true)) ∧
     exec (.stopSeen r.seg low) s = .next (aborted (Sgc.left .idle false))) ∧
  (∀ (s : State) (p : Port) (k : OwnerKind) (sg : Seg) (low : List Seg), (s.seg sg).owner = some ⟨p, k⟩ →
     (s.sgc sg).closing = true → (s.seg sg).waitList = [] →
     ((s.sgc sg).line = .address ∨ (s.sgc sg).line = .write ∨ (s.sgc sg).line = .read ∨ (s.sgc sg).line = .stopping) →
     let ended := (s.sampleLines low).closeCutShort p sg (s.causeRecord p sg .abortDownstreamError .zero)
     ended (Sgc.left .foreign true) (exec (.startSeen sg low) s) ∧
     ended (Sgc.left .idle false) (exec (.stopSeen sg low) s)) ∧
  (∀ (s : State) (p : Port) (sg : Seg) (set : List Member) (low : List Seg), (s.seg sg).waitList = [] →
     let aborted := (s.sampleLines low).memberAborted p sg set .abortDownstreamError .zero
     (s.memberAtWork p sg set → ((s.sgc sg).line = .address ∨ (s.sgc sg).line = .write) →
       exec (.startSeen sg low) s = .next (aborted (Sgc.left .foreign true)) ∧
       exec (.stopSeen sg low) s = .next (aborted (Sgc.left .idle false))) ∧
     ((s.seg sg).owner = some ⟨p, .broadcast⟩ → (s.port p).bset = some set → markIn set sg = some .owned →
       (s.port p).release = none → (s.sgc sg).closing = false → (s.sgc sg).line = .write →
       (s.port p).phase = .fwdWrite → (s.port p).sclHeld = true → (∃ x, x ≠ sg ∧ markIn set x = some .owned) →
       (∀ x, x ≠ sg → markIn set x = some .owned → (s.sgc x).line = .parked) →
       exec (.startSeen sg low) s =
         .next ((aborted (Sgc.left .foreign true)).modPort p fun c =>
           { c with sclHeld := false, ack := some .ack, out := none, idle := ⟨c.idle.limit, true⟩
                    bytesMoved := oneMore c.bytesMoved })))

/-- R84, Table 4-5: the first three losses of an address are retried and the owner sees nothing; the fourth aborts with
ABORT_LOST, address phase, and releases the segment with no STOP. R83, R85: a loss in a write byte, at the part's own NACK
of a read byte, or at the release of the data line while an RS is formed aborts at once, data phase. R84, R85, R130, Table
7-4: a loss within a close, at such a NACK included, is not retried; it ends the close as the release, with ABORT_LOST
only where the transaction has left no record. R119, R120, R122: on a segment of a broadcast the losses are retried, or
drop that member alone. That a loss at the NACK is taken until the next request is the model's choice (log entry 17), as
is the line state ADDRESS while the RS is formed (log entry 35); that a refusal record silences the second one, and that a
member dropped and being closed adds one, are its reading (log entry 11). -/
def Obligations.ArbitrationLossRetriesThreeTimes : Prop :=
  (∀ (s : State) (p : Port) (low : List Seg) (r : Route), s.single p r.seg → (s.port p).route = some r →
     (s.sgc r.seg).closing = false → (s.sgc r.seg).line = .address → (s.sgc r.seg).retry < 3 →
     exec (.arbitrationLoss r.seg .bit low) s =
       .next ((s.sampleLines low).modSgc r.seg fun c =>
         { c with line := .busWait, busBusy := true, retry := c.retry + 1, formingRs := false })) ∧
  (∀ (s : State) (p : Port) (low : List Seg) (r : Route), s.underWay p r → (s.seg r.seg).waitList = [] →
     let aborted := fun d : Detail =>
       Host.Outcome.next (φ := Fault) (ρ := Refusal)
         ((s.sampleLines low).singleAborted p r .abortLost d (Sgc.left .foreign true))
     ((s.sgc r.seg).line = .address → (s.sgc r.seg).retry = 3 → (s.port p).phase = .opening →
       exec (.arbitrationLoss r.seg .bit low) s = aborted .addressPhase) ∧
     ((s.sgc r.seg).line = .write ∧ (s.port p).phase = .fwdWrite ∧ (s.port p).sclHeld = true ∨
         (s.sgc r.seg).line = .parked ∧ (s.sgc r.seg).nackOut = true ∧ (s.port p).phase = .awaitEnd →
       exec (.arbitrationLoss r.seg .bit low) s = aborted .dataPhase) ∧
     ((s.sgc r.seg).line = .address → (s.sgc r.seg).formingRs = true → (s.port p).phase = .opening →
       exec (.arbitrationLoss r.seg .repeatedStart low) s = aborted .dataPhase)) ∧
  (∀ (s : State) (p : Port) (k : OwnerKind) (sg : Seg) (low : List Seg), (s.seg sg).owner = some ⟨p, k⟩ →
     (s.sgc sg).closing = true → (s.seg sg).waitList = [] →
     let ended := fun (d : Detail) (o : Host.Outcome State Fault Refusal) =>
       (s.sampleLines low).closeCutShort p sg (s.causeRecord p sg .abortLost d) (Sgc.left .foreign true) o
     ((s.sgc sg).line = .address → ended .addressPhase (exec (.arbitrationLoss sg .bit low) s)) ∧
     ((s.sgc sg).line = .write ∨ (s.sgc sg).line = .stopping ∧ (s.sgc sg).nackOut = true →
       ended .dataPhase (exec (.arbitrationLoss sg .bit low) s)) ∧
     ((s.sgc sg).line = .address → (s.sgc sg).formingRs = true →
       ended .dataPhase (exec (.arbitrationLoss sg .repeatedStart low) s))) ∧
  (∀ (s : State) (p : Port) (sg : Seg) (set : List Member) (low : List Seg), s.memberAtWork p sg set →
     ((s.sgc sg).line = .address → (s.sgc sg).retry < 3 →
       exec (.arbitrationLoss sg .bit low) s =
         .next ((s.sampleLines low).modSgc sg fun c =>
           { c with line := .busWait, busBusy := true, retry := c.retry + 1, formingRs := false })) ∧
     ((s.seg sg).waitList = [] → ∀ d : Detail,
       ((s.sgc sg).line = .address ∧ (s.sgc sg).retry = 3 ∧ d = .addressPhase ∨
         (s.sgc sg).line = .write ∧ d = .dataPhase) →
       exec (.arbitrationLoss sg .bit low) s =
         .next ((s.sampleLines low).memberAborted p sg set .abortLost d (Sgc.left .foreign true))))

/-- R9, R44, R54, R62, R63, R68, R133, R135: when the STOP is done the release takes effect. The last one ends the
transaction, single or broadcast: with END from the master's STOP the port is IDLE and its error count is cleared if no
abort was reported; with END from a hold expiry, or in place of ABORT, it is IDLE; with ABORT it is in DRAIN; with ADDRESS
the held address is resolved from step 1 (that the count is cleared where ADDRESS replaced the END of a STOP is the
model's reading, log entry 9). A quarantine entry that was held comes first. One that is not the last, or that comes with
nothing pending, only frees the segment; that a broadcast's set keeps its marks there is the model's choice (log entry
31). -/
def Obligations.ReleaseEndsTheTransaction : Prop :=
  ∀ (s : State) (p : Port) (k : OwnerKind) (sg : Seg) (low : List Seg), (s.seg sg).owner = some ⟨p, k⟩ →
    (s.sgc sg).line = .stopping → (s.seg sg).waitList = [] →
    let freed := fun f : PortCtx → PortCtx =>
      (((s.sampleLines low).modPort p f).disowned sg).modSgc sg fun c => c.left .idle c.busBusy
    let entered := fun t : State => if (s.port p).quarantineHeld then t.quarantineEntered p else t
    let last := fun f : PortCtx → PortCtx => exec (.stopDone sg low) s = .next (entered (freed f))
    (s.ownedBy p = [sg] →
      ((s.port p).release = some (.ending .stop) → last (PortCtx.endedClean .idle)) ∧
      ((s.port p).release = some (.ending .hold) → last (PortCtx.ended .idle)) ∧
      (∀ a, (s.port p).release = some (.ending (.stopAfterAbort a)) → last (PortCtx.ended .idle)) ∧
      (∀ a, (s.port p).release = some (.ending (.abort a)) → last (PortCtx.ended .drain)) ∧
      (∀ b r, (s.port p).release = some (.address b r) →
        exec (.stopDone sg low) s =
          .next ((entered (freed
            (if r = some .stop then PortCtx.endedClean .awaitEnd else PortCtx.ended .awaitEnd))).resolve p b))) ∧
    (((s.port p).release = none ∨ ∃ x, x ≠ sg ∧ s.owns p x = true) → exec (.stopDone sg low) s = .next (freed id))

/-- R7, R10, R11, R50, R76: the release of a segment grants the head claim of its list, and the claims behind it keep
their order; the new owner is OPEN and its START is formed at once on the free bus. R114, R115, R119: where the head
claim is a broadcast's, the segment is OWNED; with nothing else PENDING the general call is begun on every OWNED segment;
else the port keeps what it owns and waits at the tail of the list of its next PENDING segment. R51, R118: where the
claimant's withdrawal is on its way, no begin is asked and no further claim is made (its form is the model's choice, log
entry 32). -/
def Obligations.ReleaseGrantsTheHeadClaim : Prop :=
  ∀ (s : State) (p q : Port) (sg : Seg) (low : List Seg) (rest : List Claim), s.single p sg →
    (s.sgc sg).line = .stopping → (s.port p).quarantineHeld = false → (s.port p).release = some (.ending .stop) →
    q ≠ p →
    let freed := ((s.sampleLines low).modPort p (PortCtx.endedClean .idle)).modSgc sg fun c => c.left .idle c.busBusy
    (∀ (a : Addr) (r : Route), (s.seg sg).waitList = ⟨q, .device a⟩ :: rest → (s.port q).route = some r → r.seg = sg →
      let granted := (freed.modPort q fun c => { c with phase := .opening }).modSeg sg fun _ => ⟨some ⟨q, .single⟩, rest⟩
      ((s.port q).withdrawal = none → sg ∉ low →
        exec (.stopDone sg low) s = .next (granted.modSgc sg fun c => c.started (.device r.downstream) r.dir)) ∧
      ((s.port q).withdrawal ≠ none → exec (.stopDone sg low) s = .next granted)) ∧
    (∀ set : List Member, (s.seg sg).waitList = ⟨q, .generalCall⟩ :: rest → (s.port q).bset = some set →
      markIn set sg = some .pending →
      let marked := set.map fun m => if m.seg = sg then { m with mark := .owned } else m
      let granted := (freed.modPort q fun c => { c with bset := some marked }).modSeg sg fun _ =>
        ⟨some ⟨q, .broadcast⟩, rest⟩
      ((s.port q).withdrawal ≠ none → exec (.stopDone sg low) s = .next granted) ∧
      ((s.port q).withdrawal = none →
        ((∀ x, x ≠ sg → markIn set x ≠ some .pending) →
          (∀ x, markIn set x = some .owned → (s.sgc x).line = .idle ∨ (s.sgc x).line = .foreign) →
          exec (.stopDone sg low) s =
            .next { granted.modPort q fun c => { c with phase := .opening } with
              sgcs := granted.sgcs.mapAll fun x c =>
                if markIn marked x = some .owned then c.called (low.contains x) else c }) ∧
        (∀ w o, w ≠ sg → markIn set w = some .pending →
          (∀ x, x ≠ sg → (segCode x).toNat < (segCode w).toNat → markIn set x ≠ some .pending) →
          (s.seg w).owner = some o → s.condition w = .available → (∀ l ∈ s.leases, l.seg = w → l.holder = q) →
          exec (.stopDone sg low) s =
            .next (granted.modSeg w fun r => { r with waitList := r.waitList ++ [⟨q, .generalCall⟩] }))))

/-! ### The timers -/

/-- R15, R51: a hold expiry in CLAIM removes the port's claim, wherever it stands, refuses the port with WAIT_EXPIRED, and
leaves the owner and the order of the other claims. R16, R54, R82: a hold expiry in OPEN NACKs the address with
WAIT_EXPIRED; before any START (a grant that met the withdrawal, or BUS_WAIT) the segment is released at once and the port
is IDLE, with a START on the segment END is pending while the close completes the byte. R118: in the acquisition of a
broadcast the waiting claim is withdrawn, or has been granted meanwhile; every OWNED segment is released at once with
nothing sent, and the record names the segment the withdrawal was sent for. R121: in OPEN a broadcast is refused whole, and
each segment is closed by its line state; that a member released before the others keeps its mark is the model's choice
(log entry 31). That a withdrawal may stay on its way from one HOLD_EXPIRY to the next is the model's form of the race
(log entry 32). -/
def Obligations.HoldExpiryRefusesTheAddress : Prop :=
  (∀ (s : State) (p : Port) (found : ExpirySample) (w : Seg), (s.port p).phase = .claim →
     (s.port p).hold.running = true → (s.port p).withdrawal = none → found.crossing = true →
     (∃ c ∈ (s.seg w).waitList, c.port = p) → (∀ x, x ≠ w → ∀ c ∈ (s.seg x).waitList, c.port ≠ p) →
     exec (.holdExpiry p found) s =
       .next ((s.sampleLines found.low).modPort p fun c => { c with withdrawal := some w })) ∧
  (∀ (s : State) (p : Port) (found : ExpirySample) (r : Route) (d : Dest) (before after : List Claim),
     (s.port p).phase = .claim → (s.port p).hold.running = true → (s.port p).bset = none →
     (s.port p).route = some r → (s.seg r.seg).waitList = before ++ ⟨p, d⟩ :: after →
     (∀ c ∈ before ++ after, c.port ≠ p) → ((s.port p).withdrawal ≠ none ∨ found.crossing = false) →
     exec (.holdExpiry p found) s =
       .next ((((s.sampleLines found.low).modPort p PortCtx.claimRefused).writeRecord p
         ⟨.waitExpired, some r.visible, some r.seg, none, none, .zero⟩).modSeg r.seg fun x =>
         { x with waitList := before ++ after })) ∧
  (∀ (s : State) (p : Port) (found : ExpirySample) (r : Route), s.single p r.seg → (s.port p).route = some r →
     (s.port p).phase = .opening → (s.port p).hold.running = true →
     let refused := fun f : PortCtx → PortCtx =>
       ((s.sampleLines found.low).modPort p fun c =>
         f { c with sclHeld := false, ack := some .nack, out := none, withdrawal := none }).writeRecord p
         ⟨.waitExpired, some r.visible, some r.seg, none, none, .zero⟩
     ((s.seg r.seg).waitList = [] → (s.port p).quarantineHeld = false →
       ((s.sgc r.seg).line = .idle ∨ (s.sgc r.seg).line = .foreign →
         exec (.holdExpiry p found) s =
           .next (((refused (PortCtx.ended .idle)).disowned r.seg).modSgc r.seg fun c => c.left c.line c.busBusy)) ∧
       ((s.sgc r.seg).line = .busWait →
         exec (.holdExpiry p found) s =
           .next (((refused (PortCtx.ended .idle)).disowned r.seg).modSgc r.seg fun c =>
             c.left (if c.busBusy then .foreign else .idle) c.busBusy))) ∧
     ((s.sgc r.seg).line = .address →
       exec (.holdExpiry p found) s =
         .next ((refused fun c => { c with phase := .awaitEnd, release := some (.ending .hold)
                                           hold := ⟨c.hold.limit, false⟩, idle := ⟨c.idle.limit, false⟩ }).modSgc r.seg
           fun c => { c with closing := true }))) ∧
  (∀ (s : State) (p : Port) (found : ExpirySample), (s.port p).bset ≠ none → (s.port p).hold.running = true →
     (s.port p).quarantineHeld = false →
     let refused := fun (f : PortCtx → PortCtx) (sg : Option Seg) =>
       ((s.sampleLines found.low).modPort p fun c =>
         f { c with sclHeld := false, ack := some .nack, out := none, withdrawal := none }).writeRecord p
         ⟨.waitExpired, some 0, sg, none, none, .zero⟩
     ((s.port p).phase = .claim →
       (∀ x, s.owns p x = true → (s.seg x).waitList = [] ∧ ((s.sgc x).line = .idle ∨ (s.sgc x).line = .foreign)) →
       ∀ w : Seg, (∀ x, x ≠ w → ∀ c ∈ (s.seg x).waitList, c.port ≠ p) →
       let ended := fun left : List Claim =>
         { refused (PortCtx.ended .idle) (some w) with
           segs := s.segs.mapAll fun x r =>
             if s.owns p x then { r with owner := none } else if x = w then { r with waitList := left } else r
           sgcs := s.sgcs.mapAll fun x c => if s.owns p x then c.left c.line c.busBusy else c }
       (∀ (d : Dest) (before after : List Claim), (s.seg w).waitList = before ++ ⟨p, d⟩ :: after →
         (∀ c ∈ before ++ after, c.port ≠ p) → s.owns p w = false →
         ((s.port p).withdrawal = some w ∨ (s.port p).withdrawal = none ∧ found.crossing = false) →
         exec (.holdExpiry p found) s = .next (ended (before ++ after))) ∧
       ((s.port p).withdrawal = some w → s.owns p w = true → exec (.holdExpiry p found) s = .next (ended []))) ∧
     ((s.port p).phase = .opening → s.ownedBy p ≠ [] →
       (∀ x, s.owns p x = true →
         (s.sgc x).line = .busWait ∧ (s.seg x).waitList = [] ∨ (s.sgc x).line = .address ∨
           (s.sgc x).line = .parked ∨ (s.sgc x).line = .stopping) →
       let closed := fun f : PortCtx → PortCtx =>
         { refused f none with
           segs := s.segs.mapAll fun x r =>
             if s.owns p x && (s.sgc x).line == .busWait then { r with owner := none } else r
           sgcs := s.sgcs.mapAll fun x c =>
             if s.owns p x = false then c
             else if c.line = .busWait then c.left (if c.busBusy then .foreign else .idle) c.busBusy
             else if c.line = .address then { c with closing := true }
             else if c.line = .parked then c.stops
             else c }
       ((∃ x, s.owns p x = true ∧ (s.sgc x).line ≠ .busWait) →
         exec (.holdExpiry p found) s =
           .next (closed fun c => { c with phase := .awaitEnd, release := some (.ending .hold)
                                           hold := ⟨c.hold.limit, false⟩, idle := ⟨c.idle.limit, false⟩ })) ∧
       ((∀ x, s.owns p x = true → (s.sgc x).line = .busWait) →
         exec (.holdExpiry p found) s = .next (closed (PortCtx.ended .idle)))))

/-- R65, R67, R124, R126 to R129: an owner idle expiry writes ABORT_OWNER_IDLE with the bytes moved, naming the segment
unless it is a broadcast, leaves ABORT pending and closes what the port owns: STOP from PARKED, NACK and STOP from
ACK_HOLD. -/
def Obligations.OwnerIdleExpiryAborts : Prop :=
  ∀ (s : State) (p : Port) (pos : BitPosition) (low : List Seg), (s.port p).idle.running = true →
    (s.port p).sclHeld = false →
    let after := fun (moved : Word16) (visible : Addr) (sg : Option Seg) =>
      ((s.sampleLines low).modPort p fun c => { c.abortPending (.abort .cause) with bytesMoved := moved }).writeRecord p
        ⟨.abortOwnerIdle, some visible, sg, some moved, none, .zero⟩
    (∀ r : Route, s.single p r.seg → (s.port p).route = some r →
      (((s.port p).phase = .fwdWrite ∨ (s.port p).phase = .awaitEnd) → (s.sgc r.seg).line = .parked →
        exec (.ownerIdleExpiry p pos low) s =
          .next ((after (s.port p).bytesMoved r.visible (some r.seg)).modSgc r.seg Sgc.stops)) ∧
      ((s.port p).phase = .fwdRead → (s.sgc r.seg).line = .ackHold →
        exec (.ownerIdleExpiry p pos low) s =
          .next ((after (match pos with
              | .beforeEighth => (s.port p).bytesMoved
              | .afterEighth => oneMore (s.port p).bytesMoved) r.visible (some r.seg)).modSgc r.seg fun c =>
            { c.stops with nackOut := true }))) ∧
    (((s.port p).phase = .fwdWrite ∨ (s.port p).phase = .awaitEnd) → (s.port p).bset ≠ none → s.ready p →
      exec (.ownerIdleExpiry p pos low) s = .next ((after (s.port p).bytesMoved 0 none).stopsAll p))

/-- R26 to R28: an expiry removes the lease whose count has run out and writes LEASE_EXPIRED with its id and segment into
the holder's log, and touches nothing else; one that finds no lease, or a lease granted or renewed since, does nothing.
That a lease whose count has run out stands as due until its expiry is taken is the model's choice (log entry 4). -/
def Obligations.LeaseExpiryRemovesTheLease : Prop :=
  ∀ (s : State) (id : Byte),
    (∀ l ∈ s.leases, l.id = id → LeaseTableOk s →
      (l.due = true →
        exec (.leaseExpiry id) s =
          .next (({ s with leases := s.leases.filter fun m => m.id != id }).writeRecord l.holder
            ⟨.leaseExpired, none, some l.seg, none, some id, .zero⟩)) ∧
      (l.due = false → exec (.leaseExpiry id) s = .next s)) ∧
    ((∀ l ∈ s.leases, l.id ≠ id) → exec (.leaseExpiry id) s = .next s)

/-! ### The Management Engine: the order of checks -/

/-- R158 steps 1 to 3: a message of a wrong length or overlong, one that does not sum to zero, and one with an unknown
identifier are answered with that check's status and change nothing else. -/
def Obligations.UnreadableMessageIsAnswered : Prop :=
  ∀ (s : State) (p : Port) (low : List Seg) (m : Message), (s.port p).handed = some m → (s.port p).heldAddr = none →
    ((m.bytes.length < 2 ∨ m.overlong = true) →
      exec (.unknownCommand p low) s = .next ((s.sampleLines low).answered p .badLength [])) ∧
    (2 ≤ m.bytes.length → m.bytes.length ≤ 16 → m.overlong = false → byteSum m.bytes ≠ 0 →
      exec (.unknownCommand p low) s = .next ((s.sampleLines low).answered p .badCheck [])) ∧
    (∀ b rest, m.bytes = b :: rest → 2 ≤ m.bytes.length → m.bytes.length ≤ 16 → m.overlong = false →
      byteSum m.bytes = 0 →
      b ∉ [0x01, 0x02, 0x0F, 0x20, 0x21, 0x22, 0x23, 0x24, 0x30, 0x31, 0x40, 0x41, 0x42, 0x50, 0x60] →
      exec (.unknownCommand p low) s = .next ((s.sampleLines low).answered p .unknownCommand []))

/-- R158 step 4, R167: a known command with a wrong number of arguments is answered BAD_LENGTH and not carried out. R158
step 5, R33, R35, R138, R154: a privileged command from a port that is not privileged, and RESERVE and RENEW from a
quarantined port, are answered DENIED and not carried out. -/
def Obligations.ChecksTurnCommandsAway : Prop :=
  (∀ (s : State) (p : Port) (low : List Seg) (clocked : List Port) (args : List Byte), args.length ≤ 14 →
     let refused := Host.Outcome.next (φ := Fault) (ρ := Refusal) ((s.sampleLines low).answered p .badLength [])
     (s.asked p 0x01 args → args.length ≠ 0 → exec (.status p low) s = refused) ∧
     (s.asked p 0x02 args → args.length ≠ 4 → exec (.portSet p low) s = refused) ∧
     (s.asked p 0x0F args → args.length ≠ 0 → exec (.switchReset p ⟨low, clocked⟩) s = refused) ∧
     (s.asked p 0x20 args → args.length ≠ 4 → exec (.reserve p low) s = refused) ∧
     (s.asked p 0x21 args → args.length ≠ 3 → exec (.renew p low) s = refused) ∧
     (s.asked p 0x22 args → args.length ≠ 1 → exec (.release p low) s = refused) ∧
     (s.asked p 0x23 args → args.length ≠ 1 → exec (.revoke p low) s = refused) ∧
     (s.asked p 0x24 args → args.length ≠ 0 → exec (.leaseList p low) s = refused) ∧
     (s.asked p 0x30 args → args.length ≠ 4 → exec (.segmentSet p low) s = refused) ∧
     (s.asked p 0x31 args → args.length ≠ 1 → exec (.segmentRecover p low) s = refused) ∧
     (s.asked p 0x40 args → args.length ≠ 5 → exec (.mapSet p low) s = refused) ∧
     (s.asked p 0x41 args → args.length ≠ 1 → exec (.mapClear p low) s = refused) ∧
     (s.asked p 0x42 args → args.length ≠ 1 → exec (.mapRead p low) s = refused) ∧
     (s.asked p 0x50 args → args.length ≠ 1 → exec (.portRestore p low) s = refused) ∧
     (s.asked p 0x60 args → args.length ≠ 1 → exec (.logRead p low) s = refused)) ∧
  (∀ (s : State) (p : Port) (low : List Seg) (clocked : List Port) (args : List Byte),
     let refused := Host.Outcome.next (φ := Fault) (ρ := Refusal) ((s.sampleLines low).answered p .denied [])
     (privileged s.straps p = false →
       (s.asked p 0x0F args → args.length = 0 → exec (.switchReset p ⟨low, clocked⟩) s = refused) ∧
       (s.asked p 0x23 args → args.length = 1 → exec (.revoke p low) s = refused) ∧
       (s.asked p 0x30 args → args.length = 4 → exec (.segmentSet p low) s = refused) ∧
       (s.asked p 0x40 args → args.length = 5 → exec (.mapSet p low) s = refused) ∧
       (s.asked p 0x41 args → args.length = 1 → exec (.mapClear p low) s = refused) ∧
       (s.asked p 0x50 args → args.length = 1 → exec (.portRestore p low) s = refused)) ∧
     ((s.port p).quarantined = true →
       (s.asked p 0x20 args → args.length = 4 → exec (.reserve p low) s = refused) ∧
       (s.asked p 0x21 args → args.length = 3 → exec (.renew p low) s = refused)))

/-- R157: an ADDRESS_BYTE taken while a message is handed over and not answered is held with the clock, also where it is
itself the RS that ends the write. Once the reply to any command is written, and whatever the reply, the held address byte
is resolved on the state that the command leaves. A read of the management address held this way returns the new reply.
That the resolution falls in the same step as the reply, and that an address byte ends the write before it, are the
model's reading (log entries 15 and 14). -/
def Obligations.HeldAddressIsResolvedAfterTheReply : Prop :=
  (∀ (s : State) (p : Port) (b : AddrByte) (low : List Seg), (s.port p).sclHeld = false →
     ((s.port p).phase = .idle → (s.port p).handed ≠ none →
       exec (.addressByte p b low) s =
         .next ((s.sampleLines low).modPort p fun c => { c with heldAddr := some b, sclHeld := true, out := none })) ∧
     ((s.port p).phase = .mgmtWrite → (s.port p).message.bytes ≠ [] →
       exec (.addressByte p b low) s =
         .next ((s.sampleLines low).modPort p fun c =>
           { c with phase := .idle, handed := some c.message, message := ⟨[], false⟩, heldAddr := some b, sclHeld := true
                    out := none }))) ∧
  (∀ (s : State) (p : Port) (b : AddrByte) (m : Message) (low : List Seg), (s.port p).handed = some m →
     (s.port p).heldAddr = some b → (s.port p).release = none →
     let alone := s.modPort p fun c => { c with heldAddr := none }
     (∀ id args clocked, m.parse = .command id args →
       ∃ t, exec (engineRow p low clocked id) alone = .next t ∧ (t.port p).handed = none ∧
         exec (engineRow p low clocked id) s = .next (t.resolve p b)) ∧
     (∀ st, m.parse = .refused st →
       exec (.unknownCommand p low) s = .next (((s.sampleLines low).answered p st []).resolve p b))) ∧
  (∀ (s : State) (p : Port) (low : List Seg),
     (s.port p).handed = some ⟨messageBytes 0x24 [], false⟩ →
     (s.port p).heldAddr = some ⟨mgmtAddress s.straps, .read⟩ →
     ∃ t, exec (.leaseList p low) s = .next t ∧ (t.port p).phase = .mgmtRead ∧ (t.port p).ack = some .ack ∧
       (t.port p).sclHeld = false ∧ (t.port p).heldAddr = none ∧ (t.port p).handed = none ∧
       (t.port p).reply = ⟨.ok, leaseListPayload s.leases⟩ ∧ (t.port p).out = some 0x00)

/-! ### The management commands -/

/-- R161, R18, R169: STATUS is answered OK and changes nothing but the reply; its payload is the 21 bytes of Table 10-5.
R38, R169: LEASE_LIST is answered OK with the number of leases and five bytes for each, in ascending id. That the bits
Tables 10-4 and 10-5 assign to nothing are sent as 0 is the model's choice (log entry 36). -/
def Obligations.StatusAndLeaseListReportTheState : Prop :=
  (∀ (s : State) (p : Port) (low : List Seg), s.asked p 0x01 [] → (s.port p).errCount ≤ 4 →
     (s.log p).records.length ≤ 16 → (s.leasesHeld p).length ≤ 4 →
     ∃ payload : List Byte, exec (.status p low) s = .next ((s.sampleLines low).answered p .ok payload) ∧
       payload.length = 21 ∧
       payload[0]? = some (BitVec.ofNat 8 ((portCode p).toNat + bitIf (privileged s.straps p) 4 +
         bitIf (s.port p).quarantined 8 + 16 * (s.port p).errCount)) ∧
       payload[1]? = some (BitVec.ofNat 8 (s.log p).records.length) ∧
       payload[2]? = some (s.port p).holdLimit ∧ payload[3]? = some (s.port p).idleLimit ∧
       (payload.drop 4).take 2 = wordBytes (s.port p).mask ∧
       payload[6]? = some (BitVec.ofNat 8 (s.leasesHeld p).length) ∧
       (payload.drop 7).take (s.leasesHeld p).length = (s.leasesHeld p).map (·.id) ∧
       (payload.drop (7 + (s.leasesHeld p).length)).take (4 - (s.leasesHeld p).length) =
         List.replicate (4 - (s.leasesHeld p).length) 0 ∧
       (∀ q, payload[11 + (portCode q).toNat]? = some (BitVec.ofNat 8
         (phaseCode (s.port q).phase + 16 * pendingCode (s.port q).release + bitIf (s.port q).quarantined 64))) ∧
       (∀ sg, payload[15 + (segCode sg).toNat]? = some (BitVec.ofNat 8
         ((match (s.seg sg).owner with
           | some o => (portCode o.port).toNat
           | none => 7) + 16 * conditionCode (s.condition sg))))) ∧
  (∀ (s : State) (p : Port) (low : List Seg), s.asked p 0x24 [] →
     exec (.leaseList p low) s =
       .next ((s.sampleLines low).answered p .ok (BitVec.ofNat 8 s.leases.length :: s.leases.flatMap fun l =>
         [l.id, portCode l.holder * 16 + segCode l.seg, (l.target.map addrCode).getD 0] ++ wordBytes l.remaining)))

/-- R45, R149, R150, R162: a PORT_SET in range writes all three settings and sets the attention line from the records
held; one out of range is refused BAD_ARGUMENT and changes none. -/
def Obligations.PortSetWritesTheSettings : Prop :=
  ∀ (s : State) (p : Port) (low : List Seg) (hold idle m1 m0 : Byte), s.asked p 0x02 [hold, idle, m1, m0] →
    (limitRange hold → limitRange idle → (wordOf m1 m0).getLsbD 15 = false →
      exec (.portSet p low) s =
        .next ((((s.sampleLines low).modPort p fun c =>
          { c with holdLimit := hold, idleLimit := idle, mask := wordOf m1 m0 }).modLog p fun l =>
          { l with attLow := l.records.any fun r => (wordOf m1 m0).getLsbD r.body.kind.code }).answered p .ok
            [hold, idle, m1, m0])) ∧
    ((¬ limitRange hold ∨ ¬ limitRange idle ∨ (wordOf m1 m0).getLsbD 15 = true) →
      exec (.portSet p low) s = .next ((s.sampleLines low).answered p .badArgument []))

/-- R41, R70, R112, R140, R152, R163, R165: a switch reset from a privileged port removes every lease, sets the counter to
1, ends every quarantine, clears every error count, empties every log and writes one RESET_NOTICE numbered 0, keeps the
map, the settings, the straps and the replies of the other ports, and is answered OK. R20, R67, Tables 3-7 and 4-9: every
claim is removed; each port gets what its phase asks, a read byte that is cut counting if its eighth bit has been clocked;
a port whose segments have nothing to send is in DRAIN, another waits for its STOPs with ABORT pending; and each segment
is closed by its line state, a recovery being abandoned for the bus-free check with both lines released. -/
def Obligations.SwitchResetStartsThePartAgain : Prop :=
  (∀ (s : State) (p : Port) (found : ResetSample), s.asked p 0x0F [] → privileged s.straps p = true →
     ∃ t, exec (.switchReset p found) s = .next t ∧ t.leases = [] ∧ t.nextLeaseId = 1 ∧ t.map = s.map ∧
       t.straps = s.straps ∧ (t.port p).reply = ⟨.ok, []⟩ ∧ (∀ q, q ≠ p → (t.port q).reply = (s.port q).reply) ∧
       (∀ q, (t.port q).quarantined = false ∧ (t.port q).quarantineHeld = false ∧ (t.port q).errCount = 0 ∧
         (t.port q).holdLimit = (s.port q).holdLimit ∧ (t.port q).idleLimit = (s.port q).idleLimit ∧
         (t.port q).mask = (s.port q).mask) ∧
       (∀ q, t.log q = ⟨[⟨0, false, ⟨.resetNotice, none, none, none, none, .zero⟩⟩], 1, (s.port q).mask.getLsbD 14⟩) ∧
       (∀ sg, (t.sgc sg).pendingRate = (s.sgc sg).pendingRate ∧ (t.sgc sg).pendingStuck = (s.sgc sg).pendingStuck ∧
         (t.sgc sg).broadcastFlag = (s.sgc sg).broadcastFlag)) ∧
  (∀ (s : State) (p : Port) (found : ResetSample), s.asked p 0x0F [] → privileged s.straps p = true → OwnershipOk s →
     (∀ z b r, (s.port z).release ≠ some (.address b r)) →
     ∃ t, exec (.switchReset p found) s = .next t ∧
       (∀ x, (t.seg x).waitList = [] ∧ (t.seg x).owner = (if (s.sgc x).line.busy then (s.seg x).owner else none) ∧
         ((s.sgc x).line = .idle ∨ (s.sgc x).line = .foreign → (t.sgc x).line = (s.sgc x).line) ∧
         ((s.sgc x).line = .busWait → (s.seg x).owner ≠ none →
           (t.sgc x).line = if (s.sgc x).busBusy then .foreign else .idle) ∧
         ((s.sgc x).line = .address ∨ (s.sgc x).line = .write ∨ (s.sgc x).line = .read → (s.seg x).owner ≠ none →
           t.sgc x = { s.sgc x with closing := true }) ∧
         ((s.sgc x).line = .ackHold ∨ (s.sgc x).line = .parked → (s.seg x).owner ≠ none →
           (t.sgc x).line = .stopping ∧ (t.sgc x).closing = true) ∧
         ((s.sgc x).line = .stopping → t.sgc x = s.sgc x) ∧
         ((s.sgc x).line = .recovery ∨ (s.sgc x).line = .faulted →
           (t.sgc x).line = (s.sgc x).line ∧ (t.sgc x).freeCheck = true ∧ clockDrive (t.sgc x) = .released ∧
           dataDrive (t.sgc x) = .released) ∧
         ((s.sgc x).line = .recovery → (t.sgc x).origin = none)) ∧
       (∀ q, (t.port q).withdrawal = none ∧
         let drained := (t.port q).phase = .drain ∧ (t.port q).route = none ∧ (t.port q).bset = none ∧
           (t.port q).release = none
         let stays := ∃ x, s.owns q x = true ∧ (s.sgc x).line.busy = true
         ((s.port q).phase = .idle ∨ (s.port q).phase = .mgmtWrite ∨ (s.port q).phase = .mgmtRead ∨
             (s.port q).phase = .drain → (t.port q).phase = (s.port q).phase) ∧
         ((s.port q).phase = .claim →
           drained ∧ (t.port q).ack = some .nack ∧ (t.port q).sclHeld = false ∧ (t.port q).hold.running = false) ∧
         ((s.port q).phase = .opening ∨ (s.port q).phase = .fwdWrite ∨ (s.port q).phase = .fwdRead ∨
             (s.port q).phase = .awaitEnd → (s.port q).release = none →
           (t.port q).abortReported = true ∧ (t.port q).sclHeld = false ∧ (t.port q).hold.running = false ∧
           (t.port q).idle.running = false ∧ ((s.port q).phase = .opening → (t.port q).ack = some .nack) ∧
           (t.port q).bytesMoved =
             (if (s.port q).phase = .fwdRead ∧ (s.port q).sclHeld = false ∧ q ∈ found.clocked
              then oneMore (s.port q).bytesMoved else (s.port q).bytesMoved) ∧
           (stays → (t.port q).phase = .awaitEnd ∧ (t.port q).release = some (.ending (.abort .switchReset))) ∧
           (¬ stays → drained)) ∧
         (∀ e, (s.port q).release = some (.ending e) → stays →
           (t.port q).phase = .awaitEnd ∧ (t.port q).release = some (.ending e) ∧
             (t.port q).abortReported = (s.port q).abortReported)))

/-- R25, R31, R33, R34: a RESERVE that no lease overlaps and for which there is room takes the first id from the counter
on that is not in use, moves the counter past it, and is answered OK with the id. -/
def Obligations.ReserveGrantsALease : Prop :=
  ∀ (s : State) (p : Port) (low : List Seg) (sg : Seg) (target : Option Addr) (d : Word16) (k : Nat),
    s.asked p 0x20 ([segCode sg, (target.map addrCode).getD 0] ++ wordBytes d) →
    (∀ a ∈ target, deviceAddress a) → 1 ≤ d.toNat → d.toNat ≤ 60000 → (s.port p).quarantined = false →
    (∀ l ∈ s.leases, l.overlaps sg target = false) → s.leases.length < 8 → (s.leasesHeld p).length < 4 →
    s.unwanted sg → k < 8 →
    let id := idAfter^[k] s.nextLeaseId
    (∀ j < k, ∃ l ∈ s.leases, l.id = idAfter^[j] s.nextLeaseId) → (∀ l ∈ s.leases, l.id ≠ id) →
    exec (.reserve p low) s =
      .next (({ s.sampleLines low with leases := insertLease ⟨id, p, sg, target, d, false⟩ s.leases
                                       nextLeaseId := idAfter id }).answered p .ok [id])

/-- R17, R29, R31: a granted lease, whole-segment or of one target, refuses the waiting claim of another port that it
covers with RESERVED_ELSEWHERE that names the new lease, before the requester's reply is written; the owner is not
touched. R117: whoever waits, each other port is turned away so, a set that holds the segment PENDING dropping it. The
claims of the holder, and the SINGLE claims for other targets, stay as they are. That a broadcast whose withdrawal is on
its way waits for its arrival is the model's choice (log entry 32). -/
def Obligations.GrantedLeaseRefusesTheWaitingClaim : Prop :=
  ∀ (s : State) (p : Port) (low : List Seg) (sg : Seg) (target : Option Addr) (d : Word16),
    s.asked p 0x20 ([segCode sg, (target.map addrCode).getD 0] ++ wordBytes d) → (∀ a ∈ target, deviceAddress a) →
    1 ≤ d.toNat → d.toNat ≤ 60000 → (s.port p).quarantined = false →
    (∀ l ∈ s.leases, l.overlaps sg target = false ∧ l.id ≠ s.nextLeaseId) → s.leases.length < 8 →
    (s.leasesHeld p).length < 4 →
    let covered := fun a : Addr => target.isNone || target == some a
    let leased := { s.sampleLines low with
      leases := insertLease ⟨s.nextLeaseId, p, sg, target, d, false⟩ s.leases
      nextLeaseId := idAfter s.nextLeaseId }
    (∀ (q : Port) (a : Addr) (r : Route), q ≠ p → (s.seg sg).waitList = [⟨q, .device a⟩] → (s.port q).route = some r →
      (∀ x, s.markOf x sg ≠ some .pending) → (s.port q).bset = none →
      (covered a = true →
        exec (.reserve p low) s =
          .next ((((leased.modSeg sg fun x => { x with waitList := [] }).modPort q PortCtx.claimRefused).writeRecord q
            ⟨.reservedElsewhere, some r.visible, some sg, none, some s.nextLeaseId, .zero⟩).answered p .ok
              [s.nextLeaseId])) ∧
      (covered a = false → exec (.reserve p low) s = .next (leased.answered p .ok [s.nextLeaseId]))) ∧
    ∃ t, exec (.reserve p low) s = .next t ∧ (t.seg sg).owner = (s.seg sg).owner ∧
      (t.seg sg).waitList = (s.seg sg).waitList.filter (fun c => c.port == p || match c.dest with
        | .device a => !covered a
        | .generalCall => false) ∧
      ∀ q, q ≠ p →
        (s.turnedAway t sg q covered fun v => ⟨.reservedElsewhere, v, some sg, none, some s.nextLeaseId, .zero⟩) ∧
        (∀ a, covered a = false → ((s.seg sg).waitList.filter fun c => c.port == q) = [⟨q, .device a⟩] →
          (s.port q).bset = none → t.port q = s.port q ∧ t.log q = s.log q)

/-- R33, Table 2-3 steps 2 to 5: BAD_ARGUMENT, CONFLICT with the lowest lease of another port, ALREADY_HELD with the
lowest lease of the requester, TABLE_FULL, in this order; the table and the counter are left as they were. -/
def Obligations.ReserveIsRefusedInOrder : Prop :=
  ∀ (s : State) (p : Port) (low : List Seg) (b t : Byte) (d : Word16), s.asked p 0x20 ([b, t] ++ wordBytes d) →
    (s.port p).quarantined = false → LeaseTableOk s →
    let refused := fun (st : Status) (payload : List Byte) =>
      exec (.reserve p low) s = .next ((s.sampleLines low).answered p st payload)
    ((5 < b.toNat ∨ (t ≠ 0 ∧ (t.toNat < 0x08 ∨ 0x77 < t.toNat)) ∨ d.toNat = 0 ∨ 60000 < d.toNat) →
      refused .badArgument []) ∧
    (∀ (sg : Seg) (target : Option Addr), b = segCode sg → t = (target.map addrCode).getD 0 →
      (∀ a ∈ target, deviceAddress a) → 1 ≤ d.toNat → d.toNat ≤ 60000 →
      (∀ l ∈ s.leases, l.overlaps sg target = true → l.holder ≠ p →
        (∀ m ∈ s.leases, m.overlaps sg target = true → m.holder ≠ p → l.id.toNat ≤ m.id.toNat) →
        refused .conflict [l.id, portCode l.holder]) ∧
      (∀ l ∈ s.leases, l.overlaps sg target = true →
        (∀ m ∈ s.leases, m.overlaps sg target = true → m.holder = p ∧ l.id.toNat ≤ m.id.toNat) →
        refused .alreadyHeld [l.id]) ∧
      ((∀ l ∈ s.leases, l.overlaps sg target = false) → (s.leases.length = 8 ∨ (s.leasesHeld p).length = 4) →
        refused .tableFull []))

/-- R35: RENEW sets the remaining time of the requester's own lease, and no expiry follows at the old time; another port's
lease, or none, is NOT_FOUND. R36: RELEASE removes the requester's own lease, with no record; another port's lease, or
none, is NOT_FOUND. R37: REVOKE from a privileged port removes any lease, with LEASE_REVOKED in the holder's log. An id or a
duration out of range is BAD_ARGUMENT. -/
def Obligations.LeaseCommandsChangeTheTable : Prop :=
  (∀ (s : State) (p : Port) (low : List Seg) (id : Byte) (d : Word16), s.asked p 0x21 (id :: wordBytes d) →
     (s.port p).quarantined = false → LeaseTableOk s →
     ((id = 0 ∨ d.toNat = 0 ∨ 60000 < d.toNat) →
       exec (.renew p low) s = .next ((s.sampleLines low).answered p .badArgument [])) ∧
     (1 ≤ d.toNat → d.toNat ≤ 60000 →
       (∀ l ∈ s.leases, l.id = id → l.holder = p →
         exec (.renew p low) s =
           .next (({ s.sampleLines low with
             leases := s.leases.map fun m => if m = l then { m with remaining := d, due := false } else m }).answered p .ok
               [id])) ∧
       (id ≠ 0 → (∀ l ∈ s.leases, l.id = id → l.holder ≠ p) →
         exec (.renew p low) s = .next ((s.sampleLines low).answered p .notFound [])))) ∧
  (∀ (s : State) (p : Port) (low : List Seg) (id : Byte), LeaseTableOk s →
     let without := { s.sampleLines low with leases := s.leases.filter fun m => m.id != id }
     (s.asked p 0x22 [id] →
       (id = 0 → exec (.release p low) s = .next ((s.sampleLines low).answered p .badArgument [])) ∧
       (id ≠ 0 → (∀ l ∈ s.leases, l.id = id → l.holder ≠ p) →
         exec (.release p low) s = .next ((s.sampleLines low).answered p .notFound [])) ∧
       (∀ l ∈ s.leases, l.id = id → l.holder = p →
         exec (.release p low) s = .next (without.answered p .ok []))) ∧
     (s.asked p 0x23 [id] → privileged s.straps p = true →
       (id = 0 → exec (.revoke p low) s = .next ((s.sampleLines low).answered p .badArgument [])) ∧
       (id ≠ 0 → (∀ l ∈ s.leases, l.id ≠ id) →
         exec (.revoke p low) s = .next ((s.sampleLines low).answered p .notFound [])) ∧
       (∀ l ∈ s.leases, l.id = id →
         exec (.revoke p low) s =
           .next ((without.writeRecord l.holder ⟨.leaseRevoked, none, some l.seg, none, some id, .zero⟩).answered p .ok
             [id, portCode l.holder]))))

/-- R95: SEGMENT_SET writes the pending settings and the flag and leaves the active ones; it is refused BUSY when it would
clear the flag of a segment PENDING or OWNED in a broadcast set, and BAD_ARGUMENT out of range. R4, R77: it is BUSY too
for a segment that a broadcast has DROPPED and still owns, which R95's words leave out and the model reads into them (log
entry 29); that a member whose own release has taken effect still counts as OWNED is the model's choice (log entry 31). -/
def Obligations.SegmentSetWritesThePendingSettings : Prop :=
  ∀ (s : State) (p : Port) (low : List Seg) (b r limit f : Byte), s.asked p 0x30 [b, r, limit, f] →
    privileged s.straps p = true →
    let refused := fun st : Status => exec (.segmentSet p low) s = .next ((s.sampleLines low).answered p st [])
    ((5 < b.toNat ∨ 2 < r.toNat ∨ ¬ stuckRange limit ∨ 1 < f.toNat) → refused .badArgument) ∧
    (∀ sg rate, b = segCode sg → rateOfByte r = some rate → stuckRange limit → f.toNat ≤ 1 →
      let kept := ∃ q, s.markOf q sg = some .pending ∨ s.markOf q sg = some .owned ∨
        (s.seg sg).owner = some ⟨q, .broadcast⟩
      (f = 0 → kept → refused .busy) ∧
      (f = 1 ∨ ¬ kept →
        exec (.segmentSet p low) s =
          .next (((s.sampleLines low).modSgc sg fun c =>
            { c with pendingRate := rate, pendingStuck := limit, broadcastFlag := f == 1 }).answered p .ok [])))

/-- R13, R96, R116: SEGMENT_RECOVER is refused BUSY on an owned segment or one in RECOVERY, and BAD_ARGUMENT for no segment;
else the segment enters RECOVERY with the origin COMMAND, every other port that waited for it or held it PENDING in a
broadcast set is turned away with one SEGMENT_UNAVAILABLE record, and the reply is OK. That bus busy stays as it was at
the entry into RECOVERY is the model's reading (log entry 21), and what a withdrawal on its way does its choice (log entry
32). -/
def Obligations.SegmentRecoverStartsARecovery : Prop :=
  ∀ (s : State) (p : Port) (low : List Seg) (b : Byte), s.asked p 0x31 [b] →
    (5 < b.toNat → exec (.segmentRecover p low) s = .next ((s.sampleLines low).answered p .badArgument [])) ∧
    (∀ sg, b = segCode sg →
      (((s.seg sg).owner ≠ none ∨ (s.sgc sg).line = .recovery) →
        exec (.segmentRecover p low) s = .next ((s.sampleLines low).answered p .busy [])) ∧
      ((s.seg sg).owner = none → (s.sgc sg).line ≠ .recovery →
        (s.unwanted sg →
          exec (.segmentRecover p low) s =
            .next (((s.sampleLines low).modSgc sg fun c =>
              { c with line := .recovery, origin := some (.command p), freeCheck := false }).answered p .ok [])) ∧
        ∃ t, exec (.segmentRecover p low) s = .next t ∧ (t.port p).reply = ⟨.ok, []⟩ ∧ (t.seg sg).waitList = [] ∧
          (t.sgc sg).line = .recovery ∧ (t.sgc sg).origin = some (.command p) ∧
          ∀ q, q ≠ p → s.turnedAway t sg q (fun _ => true) fun v =>
            ⟨.segmentUnavailable, v, some sg, none, none, .zero⟩))

/-- R100, R108, R109: MAP_SET in range inserts an entry in its place by visible address, or replaces the entry with that
address; into a full map an insert is refused TABLE_FULL; an argument out of range, or the management address, is
BAD_ARGUMENT. -/
def Obligations.MapSetInsertsOrReplaces : Prop :=
  (∀ (s : State) (p : Port) (low : List Seg) (v b d m a : Byte), s.asked p 0x40 [v, b, d, m, a] →
     privileged s.straps p = true →
     (v.toNat < 0x08 ∨ 0x77 < v.toNat ∨ v = addrCode (mgmtAddress s.straps) ∨ 5 < b.toNat ∨ d.toNat < 0x08 ∨
       0x77 < d.toNat ∨ m.toNat = 0 ∨ 15 < m.toNat ∨ a.toNat = 0 ∨ 3 < a.toNat) →
     exec (.mapSet p low) s = .next ((s.sampleLines low).answered p .badArgument [])) ∧
  (∀ (s : State) (p : Port) (low : List Seg) (e : RouteEntry) (before after : List RouteEntry),
     s.asked p 0x40
       [addrCode e.visible, segCode e.seg, addrCode e.downstream, portMaskCode e.ports, accessCode e.access] →
     privileged s.straps p = true → EntryOk s.straps e → (∀ x ∈ before, x.visible.toNat < e.visible.toNat) →
     (∀ x ∈ after, e.visible.toNat < x.visible.toNat) →
     (s.map = before ++ after → s.map.length < 32 →
       exec (.mapSet p low) s =
         .next (({ s.sampleLines low with map := before ++ e :: after }).answered p .ok
           [BitVec.ofNat 8 before.length, 0x00])) ∧
     (s.map = before ++ after → s.map.length = 32 →
       exec (.mapSet p low) s = .next ((s.sampleLines low).answered p .tableFull [])) ∧
     (∀ old, old.visible = e.visible → s.map = before ++ old :: after →
       exec (.mapSet p low) s =
         .next (({ s.sampleLines low with map := before ++ e :: after }).answered p .ok
           [BitVec.ofNat 8 before.length, 0x01])))

/-- R110: MAP_CLEAR removes the entry it names and closes the gap; an address with no entry is NOT_FOUND, one out of range
BAD_ARGUMENT. R111: MAP_READ returns the entry at an index with the number of entries; NOT_FOUND, BAD_ARGUMENT. -/
def Obligations.MapClearAndMapRead : Prop :=
  ∀ (s : State) (p : Port) (low : List Seg) (b : Byte),
    (s.asked p 0x41 [b] → privileged s.straps p = true →
      ((b.toNat < 0x08 ∨ 0x77 < b.toNat) →
        exec (.mapClear p low) s = .next ((s.sampleLines low).answered p .badArgument [])) ∧
      (∀ a, b = addrCode a → deviceAddress a →
        ((∀ e ∈ s.map, e.visible ≠ a) →
          exec (.mapClear p low) s = .next ((s.sampleLines low).answered p .notFound [])) ∧
        (∀ before e after, s.map = before ++ e :: after → e.visible = a → MapOk s →
          exec (.mapClear p low) s =
            .next (({ s.sampleLines low with map := before ++ after }).answered p .ok [])))) ∧
    (s.asked p 0x42 [b] →
      (32 ≤ b.toNat → exec (.mapRead p low) s = .next ((s.sampleLines low).answered p .badArgument [])) ∧
      (b.toNat < 32 → s.map.length ≤ b.toNat →
        exec (.mapRead p low) s = .next ((s.sampleLines low).answered p .notFound [])) ∧
      (∀ e, b.toNat < 32 → s.map[b.toNat]? = some e →
        exec (.mapRead p low) s =
          .next ((s.sampleLines low).answered p .ok
            [BitVec.ofNat 8 s.map.length, b, addrCode e.visible, segCode e.seg, addrCode e.downstream,
              portMaskCode e.ports, accessCode e.access])))

/-- R139: PORT_RESTORE clears the flag and the count of a quarantined port and names it in its reply, and touches nothing
else; a port that is not quarantined is NOT_FOUND, no port BAD_ARGUMENT. -/
def Obligations.PortRestoreEndsTheQuarantine : Prop :=
  ∀ (s : State) (p : Port) (low : List Seg) (b : Byte), s.asked p 0x50 [b] → privileged s.straps p = true →
    (3 < b.toNat → exec (.portRestore p low) s = .next ((s.sampleLines low).answered p .badArgument [])) ∧
    (∀ q, b = portCode q →
      ((s.port q).quarantined = false →
        exec (.portRestore p low) s = .next ((s.sampleLines low).answered p .notFound [])) ∧
      ((s.port q).quarantined = true →
        exec (.portRestore p low) s =
          .next (((s.sampleLines low).modPort q fun c => { c with quarantined := false, errCount := 0 }).answered p .ok
            [b])))

/-- R147, R149, R170: LOG_READ removes up to n of the oldest records, returns them whole, keeps the next number, and sets
the line from what is left; an n outside 1 to 4 is BAD_ARGUMENT. Tables 10-6 and 10-7: the payload is the count and the ten
bytes of each record, oldest first. -/
def Obligations.LogReadRemovesTheOldest : Prop :=
  ∀ (s : State) (p : Port) (low : List Seg) (b : Byte), s.asked p 0x60 [b] →
    let two := fun w : Word16 => [(w >>> 8).setWidth 8, w.setWidth 8]
    let kind : RecordKind → Byte := fun
      | .accessDenied => 0
      | .reservedElsewhere => 1
      | .segmentUnavailable => 2
      | .waitExpired => 3
      | .abortLost => 4
      | .abortStuck => 5
      | .abortOwnerIdle => 6
      | .abortUpstreamError => 7
      | .abortDownstreamError => 8
      | .segmentFault => 9
      | .recoveryDone => 10
      | .leaseExpired => 11
      | .leaseRevoked => 12
      | .quarantined => 13
      | .resetNotice => 14
    let detail : Detail → Byte := fun
      | .zero => 0
      | .addressPhase | .stuckScl | .success => 1
      | .dataPhase | .stuckSda | .failed => 2
      | .revoked n => BitVec.ofNat 8 n
    let ten := fun r : Record =>
      two r.seq ++
      [kind r.body.kind,
        (if r.lostAfter then 0x80 else 0) + (if r.body.visible = none then 0 else 0x08) +
          (if r.body.seg = none then 0 else 0x04) + (if r.body.bytesMoved = none then 0 else 0x02) +
          (if r.body.leaseId = none then 0 else 0x01),
        match r.body.visible with
          | some a => a.setWidth 8
          | none => 0,
        match r.body.seg with
          | some .s0 | none => 0
          | some .s1 => 1
          | some .s2 => 2
          | some .s3 => 3
          | some .s4 => 4
          | some .s5 => 5] ++
      two (match r.body.bytesMoved with
        | some n => n
        | none => 0) ++
      [match r.body.leaseId with
        | some id => id
        | none => 0, detail r.body.detail]
    ((b.toNat = 0 ∨ 4 < b.toNat) →
      exec (.logRead p low) s = .next ((s.sampleLines low).answered p .badArgument [])) ∧
    (1 ≤ b.toNat → b.toNat ≤ 4 →
      exec (.logRead p low) s =
        .next (((s.sampleLines low).modLog p fun l =>
          { l with records := l.records.drop b.toNat
                   attLow := (l.records.drop b.toNat).any fun r =>
                     (s.port p).mask.getLsbD (kind r.body.kind).toNat }).answered p .ok
            (BitVec.ofNat 8 ((s.log p).records.take b.toNat).length ::
              ((s.log p).records.take b.toNat).flatMap ten)))

/-- R145, R146, R149: a record that reaches a log with room joins its tail with the next number and drives the line low
if its kind is in the mask; one that reaches a full log is turned away, takes no number, leaves the line, and sets the
flag of the newest record. -/
def Obligations.RecordEntersOrIsTurnedAway : Prop :=
  ∀ (s : State) (p : Port) (b : RecordBody),
    ((s.log p).records.length < 16 →
      s.writeRecord p b = s.modLog p fun l =>
        { records := l.records ++ [⟨l.nextSeq, false, b⟩], nextSeq := l.nextSeq + 1
          attLow := l.attLow || (s.port p).mask.getLsbD b.kind.code }) ∧
    (∀ older newest, (s.log p).records = older ++ [newest] → older.length = 15 →
      s.writeRecord p b = s.modLog p fun l => { l with records := older ++ [{ newest with lostAfter := true }] })

/-! ### The invariants -/

/-- R100 is kept by every step. -/
def Obligations.RouteMapInvariantIsKept : Prop :=
  ∀ s t : State, MapOk s → step s = .next t → MapOk t

/-- R22 to R25 are kept by every step: at most 8 leases, at most 4 of one port, ids in ascending order, no overlap, times
in range, none held by a quarantined port. A lease that is due has 1 ms left (the model's own field, log entry 4). -/
def Obligations.LeaseTableInvariantIsKept : Prop :=
  ∀ s t : State, LeaseTableOk s → step s = .next t → LeaseTableOk t

/-- R141 and R149 are kept by every step for every port: at most 16 records numbered without a gap, and the attention
line low exactly while the log holds a record of a kind in the mask. -/
def Obligations.LogInvariantIsKept : Prop :=
  ∀ s t : State, (∀ p, LogOk (s.port p).mask (s.log p)) → step s = .next t → ∀ p, LogOk (t.port p).mask (t.log p)

/-- R7, R13 and R14 are kept by every step for every segment: AVAILABLE and unowned means nobody waits; not AVAILABLE
means no owner and nobody waits. -/
def Obligations.ArbiterInvariantIsKept : Prop :=
  ∀ s t : State, (∀ sg, ArbiterOk s sg) → step s = .next t → ∀ sg, ArbiterOk t sg

/-- R4, R7, R43 are kept by every step: a port's claim stands in at most one list, once, and only in CLAIM; a port owns at
most one segment unless it broadcasts, and then each has its broadcast flag set; and a port owns one only in OPEN,
FWD_WRITE, FWD_READ and AWAIT_END, or in CLAIM as a broadcast. OwnershipOk says what else stands beside it; the segment
records are in form. That the flag stays while a dropped member is still owned is the model's reading (log entry 29), and
the withdrawal on its way its form (log entry 32). -/
def Obligations.OwnershipInvariantIsKept : Prop :=
  ∀ s t : State, (∀ sg, ArbiterOk s sg) → OwnershipOk s → step s = .next t → OwnershipOk t

/-- The ranges of Tables 3-1 and 4-1, and the agreement of bus busy and recovery origin with the line state (Table 4-3,
R90, R98), are kept by every step for every port and segment controller. R159: so is a reply's payload of at most 56
bytes, with the lease table in form. -/
def Obligations.PortsAndControllersStayInRange : Prop :=
  (∀ s t : State, (∀ p, PortOk (s.port p)) → (∀ sg, SgcOk (s.sgc sg)) → step s = .next t →
     (∀ p, PortOk (t.port p)) ∧ ∀ sg, SgcOk (t.sgc sg)) ∧
  (∀ s t : State, LeaseTableOk s → (∀ p, ReplyOk (s.port p)) → step s = .next t → ∀ p, ReplyOk (t.port p))

/-- The invariants hold right after a device reset, whatever the straps. -/
def Obligations.InvariantsHoldAfterDeviceReset : Prop :=
  ∀ straps : Straps, let s := { State.reset with straps := straps }
    MapOk s ∧ LeaseTableOk s ∧ (∀ p, LogOk (s.port p).mask (s.log p)) ∧ (∀ sg, ArbiterOk s sg) ∧ OwnershipOk s ∧
    (∀ p, PortOk (s.port p)) ∧ (∀ p, ReplyOk (s.port p)) ∧ ∀ sg, SgcOk (s.sgc sg)

end
end

