-- ==== Sys2Proof/Laws/State.lean ====
section
/-! SUPPORT. One lemma for each field under each update of the state, all by rfl or by the cases of a port or segment. -/

namespace Sys2Proof

/-! ### Port and segment values -/

@[simp] theorem PerPort.get_modify_same {α : Type} (v : PerPort α) (p : Port) (f : α → α) :
    (v.modify p f).get p = f (v.get p) := by cases p <;> rfl

@[simp] theorem PerPort.get_modify_ne {α : Type} (v : PerPort α) {p x : Port} (f : α → α) (h : x ≠ p) :
    (v.modify p f).get x = v.get x := by cases p <;> cases x <;> first | rfl | exact absurd rfl h

theorem PerPort.modify_modify {α : Type} (v : PerPort α) (p : Port) (f g : α → α) :
    (v.modify p f).modify p g = v.modify p (fun a => g (f a)) := by cases p <;> rfl

theorem PerPort.modify_comm {α : Type} (v : PerPort α) {p x : Port} (f g : α → α) (h : x ≠ p) :
    (v.modify p f).modify x g = (v.modify x g).modify p f := by
  cases p <;> cases x <;> first | rfl | exact absurd rfl h

theorem PerPort.modify_self {α : Type} (v : PerPort α) (p : Port) (f : α → α) (h : f (v.get p) = v.get p) :
    v.modify p f = v := by cases p <;> simp_all [PerPort.modify, PerPort.get]

theorem PerPort.modify_congr {α : Type} (v : PerPort α) (p : Port) (f g : α → α) (h : f (v.get p) = g (v.get p)) :
    v.modify p f = v.modify p g := by cases p <;> simp_all [PerPort.modify, PerPort.get]

@[simp] theorem PerPort.get_mapAll {α β : Type} (v : PerPort α) (f : Port → α → β) (p : Port) :
    (v.mapAll f).get p = f p (v.get p) := by cases p <;> rfl

theorem PerPort.ext_get {α : Type} {v w : PerPort α} (h : ∀ p, v.get p = w.get p) : v = w := by
  cases v; cases w
  simp only [PerPort.mk.injEq]
  exact ⟨h .u0, h .u1, h .u2, h .u3⟩

@[simp] theorem PerSeg.get_modify_same {α : Type} (v : PerSeg α) (sg : Seg) (f : α → α) :
    (v.modify sg f).get sg = f (v.get sg) := by cases sg <;> rfl

@[simp] theorem PerSeg.get_modify_ne {α : Type} (v : PerSeg α) {sg x : Seg} (f : α → α) (h : x ≠ sg) :
    (v.modify sg f).get x = v.get x := by cases sg <;> cases x <;> first | rfl | exact absurd rfl h

theorem PerSeg.modify_modify {α : Type} (v : PerSeg α) (sg : Seg) (f g : α → α) :
    (v.modify sg f).modify sg g = v.modify sg (fun a => g (f a)) := by cases sg <;> rfl

theorem PerSeg.modify_comm {α : Type} (v : PerSeg α) {sg x : Seg} (f g : α → α) (h : x ≠ sg) :
    (v.modify sg f).modify x g = (v.modify x g).modify sg f := by
  cases sg <;> cases x <;> first | rfl | exact absurd rfl h

theorem PerSeg.modify_self {α : Type} (v : PerSeg α) (sg : Seg) (f : α → α) (h : f (v.get sg) = v.get sg) :
    v.modify sg f = v := by cases sg <;> simp_all [PerSeg.modify, PerSeg.get]

theorem PerSeg.modify_congr {α : Type} (v : PerSeg α) (sg : Seg) (f g : α → α) (h : f (v.get sg) = g (v.get sg)) :
    v.modify sg f = v.modify sg g := by cases sg <;> simp_all [PerSeg.modify, PerSeg.get]

@[simp] theorem PerSeg.get_mapAll {α β : Type} (v : PerSeg α) (f : Seg → α → β) (sg : Seg) :
    (v.mapAll f).get sg = f sg (v.get sg) := by cases sg <;> rfl

theorem PerSeg.ext_get {α : Type} {v w : PerSeg α} (h : ∀ sg, v.get sg = w.get sg) : v = w := by
  cases v; cases w
  simp only [PerSeg.mk.injEq]
  exact ⟨h .s0, h .s1, h .s2, h .s3, h .s4, h .s5⟩

theorem Port.mem_all (p : Port) : p ∈ Port.all := by cases p <;> decide

theorem Seg.mem_all (sg : Seg) : sg ∈ Seg.all := by cases sg <;> decide

theorem Seg.nodup_all : Seg.all.Nodup := by decide

namespace Machine

/-! ### The state's parts under its updates -/

@[simp] theorem State.port_modPort_same (s : State) (p : Port) (f : PortCtx → PortCtx) : (s.modPort p f).port p = f (s.port p) := by
  simp [State.port, State.modPort]
@[simp] theorem State.port_modPort_ne (s : State) (p : Port) (f : PortCtx → PortCtx) {q : Port} (h : q ≠ p) : (s.modPort p f).port q = s.port q := by
  simp [State.port, State.modPort, h]
@[simp] theorem State.log_modPort (s : State) (p : Port) (f : PortCtx → PortCtx) (q : Port) : (s.modPort p f).log q = s.log q := rfl
@[simp] theorem State.seg_modPort (s : State) (p : Port) (f : PortCtx → PortCtx) (x : Seg) : (s.modPort p f).seg x = s.seg x := rfl
@[simp] theorem State.sgc_modPort (s : State) (p : Port) (f : PortCtx → PortCtx) (x : Seg) : (s.modPort p f).sgc x = s.sgc x := rfl
@[simp] theorem State.leases_modPort (s : State) (p : Port) (f : PortCtx → PortCtx) : (s.modPort p f).leases = s.leases := rfl
@[simp] theorem State.nextLeaseId_modPort (s : State) (p : Port) (f : PortCtx → PortCtx) : (s.modPort p f).nextLeaseId = s.nextLeaseId := rfl
@[simp] theorem State.map_modPort (s : State) (p : Port) (f : PortCtx → PortCtx) : (s.modPort p f).map = s.map := rfl
@[simp] theorem State.straps_modPort (s : State) (p : Port) (f : PortCtx → PortCtx) : (s.modPort p f).straps = s.straps := rfl
@[simp] theorem State.linesLow_modPort (s : State) (p : Port) (f : PortCtx → PortCtx) : (s.modPort p f).linesLow = s.linesLow := rfl
@[simp] theorem State.freeCount_modPort (s : State) (p : Port) (f : PortCtx → PortCtx) : (s.modPort p f).freeCount = s.freeCount := rfl
@[simp] theorem State.pending_modPort (s : State) (p : Port) (f : PortCtx → PortCtx) : (s.modPort p f).pending = s.pending := rfl

@[simp] theorem State.port_modLog (s : State) (p : Port) (f : Log → Log) (q : Port) : (s.modLog p f).port q = s.port q := rfl
@[simp] theorem State.log_modLog_same (s : State) (p : Port) (f : Log → Log) : (s.modLog p f).log p = f (s.log p) := by
  simp [State.log, State.modLog]
@[simp] theorem State.log_modLog_ne (s : State) (p : Port) (f : Log → Log) {q : Port} (h : q ≠ p) : (s.modLog p f).log q = s.log q := by
  simp [State.log, State.modLog, h]
@[simp] theorem State.seg_modLog (s : State) (p : Port) (f : Log → Log) (x : Seg) : (s.modLog p f).seg x = s.seg x := rfl
@[simp] theorem State.sgc_modLog (s : State) (p : Port) (f : Log → Log) (x : Seg) : (s.modLog p f).sgc x = s.sgc x := rfl
@[simp] theorem State.leases_modLog (s : State) (p : Port) (f : Log → Log) : (s.modLog p f).leases = s.leases := rfl
@[simp] theorem State.nextLeaseId_modLog (s : State) (p : Port) (f : Log → Log) : (s.modLog p f).nextLeaseId = s.nextLeaseId := rfl
@[simp] theorem State.map_modLog (s : State) (p : Port) (f : Log → Log) : (s.modLog p f).map = s.map := rfl
@[simp] theorem State.straps_modLog (s : State) (p : Port) (f : Log → Log) : (s.modLog p f).straps = s.straps := rfl
@[simp] theorem State.linesLow_modLog (s : State) (p : Port) (f : Log → Log) : (s.modLog p f).linesLow = s.linesLow := rfl
@[simp] theorem State.freeCount_modLog (s : State) (p : Port) (f : Log → Log) : (s.modLog p f).freeCount = s.freeCount := rfl
@[simp] theorem State.pending_modLog (s : State) (p : Port) (f : Log → Log) : (s.modLog p f).pending = s.pending := rfl

@[simp] theorem State.port_modSeg (s : State) (sg : Seg) (f : SegRecord → SegRecord) (q : Port) : (s.modSeg sg f).port q = s.port q := rfl
@[simp] theorem State.log_modSeg (s : State) (sg : Seg) (f : SegRecord → SegRecord) (q : Port) : (s.modSeg sg f).log q = s.log q := rfl
@[simp] theorem State.seg_modSeg_same (s : State) (sg : Seg) (f : SegRecord → SegRecord) : (s.modSeg sg f).seg sg = f (s.seg sg) := by
  simp [State.seg, State.modSeg]
@[simp] theorem State.seg_modSeg_ne (s : State) (sg : Seg) (f : SegRecord → SegRecord) {x : Seg} (h : x ≠ sg) : (s.modSeg sg f).seg x = s.seg x := by
  simp [State.seg, State.modSeg, h]
@[simp] theorem State.sgc_modSeg (s : State) (sg : Seg) (f : SegRecord → SegRecord) (x : Seg) : (s.modSeg sg f).sgc x = s.sgc x := rfl
@[simp] theorem State.leases_modSeg (s : State) (sg : Seg) (f : SegRecord → SegRecord) : (s.modSeg sg f).leases = s.leases := rfl
@[simp] theorem State.nextLeaseId_modSeg (s : State) (sg : Seg) (f : SegRecord → SegRecord) : (s.modSeg sg f).nextLeaseId = s.nextLeaseId := rfl
@[simp] theorem State.map_modSeg (s : State) (sg : Seg) (f : SegRecord → SegRecord) : (s.modSeg sg f).map = s.map := rfl
@[simp] theorem State.straps_modSeg (s : State) (sg : Seg) (f : SegRecord → SegRecord) : (s.modSeg sg f).straps = s.straps := rfl
@[simp] theorem State.linesLow_modSeg (s : State) (sg : Seg) (f : SegRecord → SegRecord) : (s.modSeg sg f).linesLow = s.linesLow := rfl
@[simp] theorem State.freeCount_modSeg (s : State) (sg : Seg) (f : SegRecord → SegRecord) : (s.modSeg sg f).freeCount = s.freeCount := rfl
@[simp] theorem State.pending_modSeg (s : State) (sg : Seg) (f : SegRecord → SegRecord) : (s.modSeg sg f).pending = s.pending := rfl

@[simp] theorem State.port_modSgc (s : State) (sg : Seg) (f : Sgc → Sgc) (q : Port) : (s.modSgc sg f).port q = s.port q := rfl
@[simp] theorem State.log_modSgc (s : State) (sg : Seg) (f : Sgc → Sgc) (q : Port) : (s.modSgc sg f).log q = s.log q := rfl
@[simp] theorem State.seg_modSgc (s : State) (sg : Seg) (f : Sgc → Sgc) (x : Seg) : (s.modSgc sg f).seg x = s.seg x := rfl
@[simp] theorem State.sgc_modSgc_same (s : State) (sg : Seg) (f : Sgc → Sgc) : (s.modSgc sg f).sgc sg = f (s.sgc sg) := by
  simp [State.sgc, State.modSgc]
@[simp] theorem State.sgc_modSgc_ne (s : State) (sg : Seg) (f : Sgc → Sgc) {x : Seg} (h : x ≠ sg) : (s.modSgc sg f).sgc x = s.sgc x := by
  simp [State.sgc, State.modSgc, h]
@[simp] theorem State.leases_modSgc (s : State) (sg : Seg) (f : Sgc → Sgc) : (s.modSgc sg f).leases = s.leases := rfl
@[simp] theorem State.nextLeaseId_modSgc (s : State) (sg : Seg) (f : Sgc → Sgc) : (s.modSgc sg f).nextLeaseId = s.nextLeaseId := rfl
@[simp] theorem State.map_modSgc (s : State) (sg : Seg) (f : Sgc → Sgc) : (s.modSgc sg f).map = s.map := rfl
@[simp] theorem State.straps_modSgc (s : State) (sg : Seg) (f : Sgc → Sgc) : (s.modSgc sg f).straps = s.straps := rfl
@[simp] theorem State.linesLow_modSgc (s : State) (sg : Seg) (f : Sgc → Sgc) : (s.modSgc sg f).linesLow = s.linesLow := rfl
@[simp] theorem State.freeCount_modSgc (s : State) (sg : Seg) (f : Sgc → Sgc) : (s.modSgc sg f).freeCount = s.freeCount := rfl
@[simp] theorem State.pending_modSgc (s : State) (sg : Seg) (f : Sgc → Sgc) : (s.modSgc sg f).pending = s.pending := rfl

@[simp] theorem State.port_setLeases (s : State) (l : List Lease) (q : Port) : (s.setLeases l).port q = s.port q := rfl
@[simp] theorem State.log_setLeases (s : State) (l : List Lease) (q : Port) : (s.setLeases l).log q = s.log q := rfl
@[simp] theorem State.seg_setLeases (s : State) (l : List Lease) (x : Seg) : (s.setLeases l).seg x = s.seg x := rfl
@[simp] theorem State.sgc_setLeases (s : State) (l : List Lease) (x : Seg) : (s.setLeases l).sgc x = s.sgc x := rfl
@[simp] theorem State.leases_setLeases (s : State) (l : List Lease) : (s.setLeases l).leases = l := rfl
@[simp] theorem State.nextLeaseId_setLeases (s : State) (l : List Lease) : (s.setLeases l).nextLeaseId = s.nextLeaseId := rfl
@[simp] theorem State.map_setLeases (s : State) (l : List Lease) : (s.setLeases l).map = s.map := rfl
@[simp] theorem State.straps_setLeases (s : State) (l : List Lease) : (s.setLeases l).straps = s.straps := rfl
@[simp] theorem State.linesLow_setLeases (s : State) (l : List Lease) : (s.setLeases l).linesLow = s.linesLow := rfl
@[simp] theorem State.freeCount_setLeases (s : State) (l : List Lease) : (s.setLeases l).freeCount = s.freeCount := rfl
@[simp] theorem State.pending_setLeases (s : State) (l : List Lease) : (s.setLeases l).pending = s.pending := rfl

@[simp] theorem State.port_setMap (s : State) (m : List RouteEntry) (q : Port) : (s.setMap m).port q = s.port q := rfl
@[simp] theorem State.log_setMap (s : State) (m : List RouteEntry) (q : Port) : (s.setMap m).log q = s.log q := rfl
@[simp] theorem State.seg_setMap (s : State) (m : List RouteEntry) (x : Seg) : (s.setMap m).seg x = s.seg x := rfl
@[simp] theorem State.sgc_setMap (s : State) (m : List RouteEntry) (x : Seg) : (s.setMap m).sgc x = s.sgc x := rfl
@[simp] theorem State.leases_setMap (s : State) (m : List RouteEntry) : (s.setMap m).leases = s.leases := rfl
@[simp] theorem State.nextLeaseId_setMap (s : State) (m : List RouteEntry) : (s.setMap m).nextLeaseId = s.nextLeaseId := rfl
@[simp] theorem State.map_setMap (s : State) (m : List RouteEntry) : (s.setMap m).map = m := rfl
@[simp] theorem State.straps_setMap (s : State) (m : List RouteEntry) : (s.setMap m).straps = s.straps := rfl
@[simp] theorem State.linesLow_setMap (s : State) (m : List RouteEntry) : (s.setMap m).linesLow = s.linesLow := rfl
@[simp] theorem State.freeCount_setMap (s : State) (m : List RouteEntry) : (s.setMap m).freeCount = s.freeCount := rfl
@[simp] theorem State.pending_setMap (s : State) (m : List RouteEntry) : (s.setMap m).pending = s.pending := rfl

@[simp] theorem State.port_sampleLines (s : State) (low : List Seg) (q : Port) : (s.sampleLines low).port q = s.port q := rfl
@[simp] theorem State.log_sampleLines (s : State) (low : List Seg) (q : Port) : (s.sampleLines low).log q = s.log q := rfl
@[simp] theorem State.seg_sampleLines (s : State) (low : List Seg) (x : Seg) : (s.sampleLines low).seg x = s.seg x := rfl
@[simp] theorem State.sgc_sampleLines (s : State) (low : List Seg) (x : Seg) : (s.sampleLines low).sgc x = s.sgc x := rfl
@[simp] theorem State.leases_sampleLines (s : State) (low : List Seg) : (s.sampleLines low).leases = s.leases := rfl
@[simp] theorem State.nextLeaseId_sampleLines (s : State) (low : List Seg) : (s.sampleLines low).nextLeaseId = s.nextLeaseId := rfl
@[simp] theorem State.map_sampleLines (s : State) (low : List Seg) : (s.sampleLines low).map = s.map := rfl
@[simp] theorem State.straps_sampleLines (s : State) (low : List Seg) : (s.sampleLines low).straps = s.straps := rfl
@[simp] theorem State.linesLow_sampleLines (s : State) (low : List Seg) (sg : Seg) :
    (s.sampleLines low).linesLow.get sg = low.contains sg := by simp [State.sampleLines]
@[simp] theorem State.freeCount_sampleLines (s : State) (low : List Seg) : (s.sampleLines low).freeCount = s.freeCount := rfl
@[simp] theorem State.pending_sampleLines (s : State) (low : List Seg) : (s.sampleLines low).pending = s.pending := rfl

/-! ### Updates of one part fuse, commute and depend only on the part -/

theorem State.modPort_modPort (s : State) (p : Port) (f g : PortCtx → PortCtx) :
    (s.modPort p f).modPort p g = s.modPort p fun c => g (f c) := by simp [State.modPort, PerPort.modify_modify]

theorem State.modPort_comm (s : State) {p q : Port} (f g : PortCtx → PortCtx) (h : q ≠ p) :
    (s.modPort p f).modPort q g = (s.modPort q g).modPort p f := by
  simp only [State.modPort]; rw [PerPort.modify_comm _ _ _ h]

theorem State.modPort_congr (s : State) (p : Port) (f g : PortCtx → PortCtx) (h : f (s.port p) = g (s.port p)) :
    s.modPort p f = s.modPort p g := by simp only [State.modPort]; rw [PerPort.modify_congr _ _ _ _ h]

theorem State.modPort_self (s : State) (p : Port) (f : PortCtx → PortCtx) (h : f (s.port p) = s.port p) : s.modPort p f = s := by
  simp only [State.modPort]; rw [PerPort.modify_self _ _ _ h]

theorem State.modLog_modLog (s : State) (p : Port) (f g : Log → Log) :
    (s.modLog p f).modLog p g = s.modLog p fun c => g (f c) := by simp [State.modLog, PerPort.modify_modify]

theorem State.modLog_comm (s : State) {p q : Port} (f g : Log → Log) (h : q ≠ p) :
    (s.modLog p f).modLog q g = (s.modLog q g).modLog p f := by
  simp only [State.modLog]; rw [PerPort.modify_comm _ _ _ h]

theorem State.modLog_congr (s : State) (p : Port) (f g : Log → Log) (h : f (s.log p) = g (s.log p)) :
    s.modLog p f = s.modLog p g := by simp only [State.modLog]; rw [PerPort.modify_congr _ _ _ _ h]

theorem State.modLog_self (s : State) (p : Port) (f : Log → Log) (h : f (s.log p) = s.log p) : s.modLog p f = s := by
  simp only [State.modLog]; rw [PerPort.modify_self _ _ _ h]

theorem State.modSeg_modSeg (s : State) (sg : Seg) (f g : SegRecord → SegRecord) :
    (s.modSeg sg f).modSeg sg g = s.modSeg sg fun c => g (f c) := by simp [State.modSeg, PerSeg.modify_modify]

theorem State.modSeg_comm (s : State) {sg x : Seg} (f g : SegRecord → SegRecord) (h : x ≠ sg) :
    (s.modSeg sg f).modSeg x g = (s.modSeg x g).modSeg sg f := by
  simp only [State.modSeg]; rw [PerSeg.modify_comm _ _ _ h]

theorem State.modSeg_congr (s : State) (sg : Seg) (f g : SegRecord → SegRecord) (h : f (s.seg sg) = g (s.seg sg)) :
    s.modSeg sg f = s.modSeg sg g := by simp only [State.modSeg]; rw [PerSeg.modify_congr _ _ _ _ h]

theorem State.modSeg_self (s : State) (sg : Seg) (f : SegRecord → SegRecord) (h : f (s.seg sg) = s.seg sg) : s.modSeg sg f = s := by
  simp only [State.modSeg]; rw [PerSeg.modify_self _ _ _ h]

theorem State.modSgc_modSgc (s : State) (sg : Seg) (f g : Sgc → Sgc) :
    (s.modSgc sg f).modSgc sg g = s.modSgc sg fun c => g (f c) := by simp [State.modSgc, PerSeg.modify_modify]

theorem State.modSgc_comm (s : State) {sg x : Seg} (f g : Sgc → Sgc) (h : x ≠ sg) :
    (s.modSgc sg f).modSgc x g = (s.modSgc x g).modSgc sg f := by
  simp only [State.modSgc]; rw [PerSeg.modify_comm _ _ _ h]

theorem State.modSgc_congr (s : State) (sg : Seg) (f g : Sgc → Sgc) (h : f (s.sgc sg) = g (s.sgc sg)) :
    s.modSgc sg f = s.modSgc sg g := by simp only [State.modSgc]; rw [PerSeg.modify_congr _ _ _ _ h]

theorem State.modSgc_self (s : State) (sg : Seg) (f : Sgc → Sgc) (h : f (s.sgc sg) = s.sgc sg) : s.modSgc sg f = s := by
  simp only [State.modSgc]; rw [PerSeg.modify_self _ _ _ h]

end Machine
end Sys2Proof
end

