-- ==== Sys2Proof/Laws/Kept.lean ====
section
/-! SUPPORT. What the shared operations of a transaction (claims, grants, resolutions, releases, closes, aborts, flushes)
keep, said once as a relation between the state before and the state after; and that it carries the invariants over. -/

namespace Sys2Proof.Machine

/-! ### One port -/

/-- What a transaction's operations keep of a port: its settings, its reply, its message in hand; the error count is kept
or cleared; the limits taken are kept or taken from the settings; a quarantine is not lifted. -/
structure PortKept (c d : PortCtx) : Prop where
  holdLimit : d.holdLimit = c.holdLimit
  idleLimit : d.idleLimit = c.idleLimit
  mask : d.mask = c.mask
  reply : d.reply = c.reply
  handed : d.handed = c.handed
  message : d.message = c.message ∨ d.message = ⟨[], false⟩
  errCount : d.errCount = c.errCount ∨ d.errCount = 0
  holdTaken : d.hold.limit = c.hold.limit ∨ d.hold.limit = c.holdLimit
  idleTaken : d.idle.limit = c.idle.limit ∨ d.idle.limit = c.idleLimit
  quarantined : c.quarantined = true → d.quarantined = true

theorem PortKept.refl (c : PortCtx) : PortKept c c :=
  ⟨rfl, rfl, rfl, rfl, rfl, .inl rfl, .inl rfl, .inl rfl, .inl rfl, id⟩

theorem PortKept.trans {c d e : PortCtx} (h : PortKept c d) (k : PortKept d e) : PortKept c e := by
  refine ⟨k.holdLimit.trans h.holdLimit, k.idleLimit.trans h.idleLimit, k.mask.trans h.mask, k.reply.trans h.reply,
    k.handed.trans h.handed, ?_, ?_, ?_, ?_, fun q => k.quarantined (h.quarantined q)⟩
  · rcases k.message with m | m
    · rw [m]; exact h.message
    · exact .inr m
  · rcases k.errCount with m | m
    · rw [m]; exact h.errCount
    · exact .inr m
  · rcases k.holdTaken with m | m
    · rw [m]; exact h.holdTaken
    · exact .inr (m.trans h.holdLimit)
  · rcases k.idleTaken with m | m
    · rw [m]; exact h.idleTaken
    · exact .inr (m.trans h.idleLimit)

theorem PortKept.ok {c d : PortCtx} (h : PortKept c d) (ok : PortOk c) : PortOk d := by
  obtain ⟨a1, a2, a3, a4, a5, a6, a7⟩ := ok
  refine ⟨by rw [h.holdLimit]; exact a1, by rw [h.idleLimit]; exact a2, ?_, ?_, by rw [h.mask]; exact a5, ?_, ?_⟩
  · rcases h.holdTaken with m | m <;> rw [m] <;> assumption
  · rcases h.idleTaken with m | m <;> rw [m] <;> assumption
  · rcases h.errCount with m | m <;> rw [m]
    · exact a6
    · exact Nat.zero_le _
  · rcases h.message with m | m <;> rw [m]
    · exact a7
    · exact Nat.zero_le _

/-! ### One log -/

/-- The log after some records have reached it. -/
inductive LogGrown (mask : Word16) : Log → Log → Prop
  | refl (l : Log) : LogGrown mask l l
  | enter {l m : Log} (b : RecordBody) (h : LogGrown mask l m) : LogGrown mask l (m.enter mask b)

theorem LogGrown.trans {mask : Word16} {a b c : Log} (h : LogGrown mask a b) (k : LogGrown mask b c) :
    LogGrown mask a c := by
  induction k with
  | refl => exact h
  | enter b _ ih => exact .enter b ih

theorem length_markTail (rs : List Record) : (markTail rs).length = rs.length := by
  fun_induction markTail rs <;> simp_all

theorem attentionDue_markTail (mask : Word16) (rs : List Record) :
    attentionDue mask (markTail rs) = attentionDue mask rs := by
  unfold attentionDue
  fun_induction markTail rs <;> simp_all

theorem numberedUpTo_markTail (n : Word16) (rs : List Record) : numberedUpTo n rs → numberedUpTo n (markTail rs) := by
  fun_induction markTail rs with
  | case1 => exact id
  | case2 r => exact id
  | case3 r rest hne ih =>
    intro h
    match rest, hne, h, ih with
    | q :: tl, _, h, ih =>
      have ih' := ih h.2
      cases tl with
      | nil => exact ⟨h.1, ih'⟩
      | cons x tl => exact ⟨h.1, ih'⟩

theorem numberedUpTo_append (n : Word16) (b : RecordBody) (rs : List Record) (h : numberedUpTo n rs) :
    numberedUpTo (n + 1) (rs ++ [⟨n, false, b⟩]) := by
  fun_induction numberedUpTo n rs with
  | case1 => rfl
  | case2 r => exact ⟨h, rfl⟩
  | case3 r q rest ih => exact ⟨h.1, ih h.2⟩

/-- R141, R145, R146, R149: a log keeps its invariant when a record reaches it. -/
theorem Log.enter_ok (mask : Word16) (b : RecordBody) {l : Log} (h : LogOk mask l) : LogOk mask (l.enter mask b) := by
  obtain ⟨h1, h2, h3⟩ := h
  unfold Log.enter
  split
  · rename_i room
    refine ⟨?_, ?_, ?_⟩
    · simp only [List.length_append, List.length_cons, List.length_nil]; omega
    · exact numberedUpTo_append _ _ _ h2
    · simp [attentionDue, h3]
  · refine ⟨?_, ?_, ?_⟩
    · simp only [length_markTail]; exact h1
    · exact numberedUpTo_markTail _ _ h2
    · simp only [attentionDue_markTail]; exact h3

theorem LogGrown.ok {mask : Word16} {l m : Log} (h : LogGrown mask l m) (ok : LogOk mask l) : LogOk mask m := by
  induction h with
  | refl => exact ok
  | enter b _ ih => exact Log.enter_ok mask b ih

/-! ### One segment controller -/

/-- What a transaction's operations keep of a segment controller: its settings, and its invariant. -/
structure SgcKept (c d : Sgc) : Prop where
  pendingRate : d.pendingRate = c.pendingRate
  pendingStuck : d.pendingStuck = c.pendingStuck
  broadcastFlag : d.broadcastFlag = c.broadcastFlag
  ok : SgcOk c → SgcOk d

theorem SgcKept.refl (c : Sgc) : SgcKept c c := ⟨rfl, rfl, rfl, id⟩

theorem SgcKept.trans {c d e : Sgc} (h : SgcKept c d) (k : SgcKept d e) : SgcKept c e :=
  ⟨k.pendingRate.trans h.pendingRate, k.pendingStuck.trans h.pendingStuck, k.broadcastFlag.trans h.broadcastFlag,
    fun o => k.ok (h.ok o)⟩

/-! ### The whole state -/

/-- What every operation of a transaction keeps: the map, the straps, the pins, the queue, the lease counter; leases are
only removed, and a port that becomes quarantined loses all it held; logs only take records; ports and segment
controllers as above. -/
structure Kept (s t : State) : Prop where
  map : t.map = s.map
  straps : t.straps = s.straps
  linesLow : t.linesLow = s.linesLow
  freeCount : t.freeCount = s.freeCount
  pending : t.pending = s.pending
  counter : t.nextLeaseId = s.nextLeaseId
  leases : t.leases.Sublist s.leases
  quarantined : ∀ p, (t.port p).quarantined = true → (s.port p).quarantined = true ∨ t.leasesHeld p = []
  port : ∀ p, PortKept (s.port p) (t.port p)
  log : ∀ p, LogGrown (s.port p).mask (s.log p) (t.log p)
  sgc : ∀ sg, SgcKept (s.sgc sg) (t.sgc sg)

theorem Kept.refl (s : State) : Kept s s :=
  ⟨rfl, rfl, rfl, rfl, rfl, rfl, .refl _, fun _ => .inl, fun _ => .refl _, fun _ => .refl _, fun _ => .refl _⟩

theorem Kept.held {s t : State} (h : Kept s t) (p : Port) : (t.leasesHeld p).Sublist (s.leasesHeld p) :=
  h.leases.filter _

theorem Kept.trans {s t u : State} (h : Kept s t) (k : Kept t u) : Kept s u where
  map := k.map.trans h.map
  straps := k.straps.trans h.straps
  linesLow := k.linesLow.trans h.linesLow
  freeCount := k.freeCount.trans h.freeCount
  pending := k.pending.trans h.pending
  counter := k.counter.trans h.counter
  leases := k.leases.trans h.leases
  quarantined p q := by
    rcases k.quarantined p q with m | m
    · rcases h.quarantined p m with n | n
      · exact .inl n
      · exact .inr (List.sublist_nil.mp (n ▸ k.held p))
    · exact .inr m
  port p := (h.port p).trans (k.port p)
  log p := by
    have := k.log p
    rw [(h.port p).mask] at this
    exact (h.log p).trans this
  sgc sg := (h.sgc sg).trans (k.sgc sg)

theorem Kept.foldl {α : Type} (f : State → α → State) (hf : ∀ s a, Kept s (f s a)) (as : List α) (s : State) :
    Kept s (as.foldl f s) := by
  induction as generalizing s with
  | nil => exact .refl s
  | cons a rest ih => exact (hf s a).trans (ih _)

/-- R100 is kept. -/
theorem Kept.mapOk {s t : State} (h : Kept s t) (ok : MapOk s) : MapOk t :=
  ⟨h.map ▸ ok.size, h.map ▸ ok.ascending, by rw [h.map, h.straps]; exact ok.entries⟩

/-- R22 to R25 are kept. -/
theorem Kept.leaseTableOk {s t : State} (h : Kept s t) (ok : LeaseTableOk s) : LeaseTableOk t where
  size := h.leases.length_le.trans ok.size
  perPort p := (h.held p).length_le.trans (ok.perPort p)
  ascending := ok.ascending.sublist h.leases
  apart := ok.apart.sublist h.leases
  records l hl := ok.records l (h.leases.subset hl)
  counter := h.counter ▸ ok.counter
  quarantined p q := by
    rcases h.quarantined p q with m | m
    · exact List.sublist_nil.mp (ok.quarantined p m ▸ h.held p)
    · exact m

/-- R141 and R149 are kept. -/
theorem Kept.logOk {s t : State} (h : Kept s t) (p : Port) (ok : LogOk (s.port p).mask (s.log p)) :
    LogOk (t.port p).mask (t.log p) := by
  rw [(h.port p).mask]; exact (h.log p).ok ok

theorem Kept.portOk {s t : State} (h : Kept s t) (p : Port) (ok : PortOk (s.port p)) : PortOk (t.port p) :=
  (h.port p).ok ok

theorem Kept.sgcOk {s t : State} (h : Kept s t) (sg : Seg) (ok : SgcOk (s.sgc sg)) : SgcOk (t.sgc sg) :=
  (h.sgc sg).ok ok

/-! ### The updates -/

theorem Kept.modPort (s : State) (p : Port) (f : PortCtx → PortCtx) (hf : PortKept (s.port p) (f (s.port p)))
    (hq : (f (s.port p)).quarantined = (s.port p).quarantined) : Kept s (s.modPort p f) where
  map := rfl
  straps := rfl
  linesLow := rfl
  freeCount := rfl
  pending := rfl
  counter := rfl
  leases := .refl _
  quarantined q h := by
    by_cases e : q = p
    · subst e; rw [State.port_modPort_same, hq] at h; exact .inl h
    · rw [State.port_modPort_ne _ _ _ e] at h; exact .inl h
  port q := by
    by_cases e : q = p
    · subst e; rw [State.port_modPort_same]; exact hf
    · rw [State.port_modPort_ne _ _ _ e]; exact .refl _
  log _ := .refl _
  sgc _ := .refl _

theorem Kept.modSeg (s : State) (sg : Seg) (f : SegRecord → SegRecord) : Kept s (s.modSeg sg f) :=
  ⟨rfl, rfl, rfl, rfl, rfl, rfl, .refl _, fun _ => .inl, fun _ => .refl _, fun _ => .refl _, fun _ => .refl _⟩

theorem Kept.modSgc (s : State) (sg : Seg) (f : Sgc → Sgc) (hf : SgcKept (s.sgc sg) (f (s.sgc sg))) :
    Kept s (s.modSgc sg f) where
  map := rfl
  straps := rfl
  linesLow := rfl
  freeCount := rfl
  pending := rfl
  counter := rfl
  leases := .refl _
  quarantined _ := .inl
  port _ := .refl _
  log _ := .refl _
  sgc x := by
    by_cases e : x = sg
    · subst e; rw [State.sgc_modSgc_same]; exact hf
    · rw [State.sgc_modSgc_ne _ _ _ e]; exact .refl _

theorem State.writeRecord_kept (s : State) (p : Port) (b : RecordBody) : Kept s (s.writeRecord p b) where
  map := rfl
  straps := rfl
  linesLow := rfl
  freeCount := rfl
  pending := rfl
  counter := rfl
  leases := .refl _
  quarantined _ := .inl
  port _ := .refl _
  log q := by
    unfold State.writeRecord
    by_cases e : q = p
    · subst e; rw [State.log_modLog_same]; exact .enter b (.refl _)
    · rw [State.log_modLog_ne _ _ _ e]; exact .refl _
  sgc _ := .refl _

end Sys2Proof.Machine
end

