-- ==== Sys2Proof/Laws/Messages.lean ====
section
/-! SUPPORT. The sum of a message and of a reply, what the Engine makes of a message that was asked, and what answering
it does. -/

namespace Sys2Proof

theorem byteSum_append (a b : List Byte) : byteSum (a ++ b) = byteSum a + byteSum b := by
  induction a with
  | nil => simp [byteSum]
  | cons x rest ih => simp [byteSum, ih, BitVec.add_assoc]

theorem byteSum_complete (a : List Byte) : byteSum (a ++ [-(byteSum a)]) = 0 := by
  rw [byteSum_append]; simp [byteSum]

namespace Machine

/-- R159: the bytes of every reply sum to zero. -/
theorem Reply.byteSum_bytes (r : Reply) : byteSum r.bytes = 0 := byteSum_complete _

theorem byteSum_messageBytes (id : Byte) (args : List Byte) : byteSum (messageBytes id args) = 0 := byteSum_complete _

/-- Steps 1 to 3 of Table 9-4 on a well-made message. -/
theorem parse_messageBytes (id : Byte) (args : List Byte) (c : CommandId) (hc : commandOfByte id = some c)
    (hl : args.length ≤ 14) : (⟨messageBytes id args, false⟩ : Message).parse = .command c args := by
  unfold Message.parse
  have h1 : (messageBytes id args).length = args.length + 2 := by simp [messageBytes]
  have h2 := byteSum_messageBytes id args
  simp only [h1, h2]
  rw [if_neg (by simp [Config.messageCapacity]; omega)]
  simp [messageBytes, hc]

theorem State.asked_sampleLines (s : State) (low : List Seg) (p : Port) (id : Byte) (args : List Byte) :
    (s.sampleLines low).asked p id args ↔ s.asked p id args := Iff.rfl

/-- R157, R158: the Engine takes a message that names the command. -/
theorem State.takeCommand_asked {s : State} {p : Port} {b : Byte} {args : List Byte} (h : s.asked p b args)
    (id : CommandId) (hc : commandOfByte b = some id) (hl : args.length ≤ 14)
    (body : List Byte → State → Answered) :
    s.takeCommand p id body =
      (s.checked p id args body).state.finishCommand p (s.checked p id args body).reply := by
  unfold State.takeCommand
  rw [h.1]
  simp only [parse_messageBytes b args id hc hl, beq_self_eq_true, if_true]

/-- R157: the reply is written; no address byte waits for it. -/
theorem State.finishCommand_noAddress {s : State} {p : Port} (h : (s.port p).heldAddr = none) (st : Status)
    (payload : List Byte) : s.finishCommand p ⟨st, payload⟩ = s.answered p st payload := by
  unfold State.finishCommand State.answered
  simp [h]

/-- R158, steps 4 and 5, passed. -/
theorem State.checked_pass {s : State} {p : Port} {id : CommandId} {args : List Byte}
    (h4 : args.length = argumentCount id) (h5 : needsPrivilege id = true → privileged s.straps p = true)
    (h6 : closedToQuarantined id = true → (s.port p).quarantined = false) (body : List Byte → State → Answered) :
    s.checked p id args body = body args s := by
  unfold State.checked
  rw [if_neg (by simp [h4]), if_neg, if_neg]
  · cases hq : closedToQuarantined id
    · simp
    · simp [h6 hq]
  · cases hq : needsPrivilege id
    · simp
    · simp [h5 hq]

end Machine
end Sys2Proof
end

