-- ==== Sys2Proof/Laws/Ops.lean ====
section
/-! SUPPORT. For each shared operation of Machine/Ops.lean, and each expiry, the one lemma that says what it keeps; and that an
address byte resolved leaves a broadcast no result to collect. -/

namespace Sys2Proof.Machine

/-! ### What the port's and the controller's own updates keep -/

theorem PortCtx.answer_kept (a : AckBit) (c : PortCtx) : PortKept c (c.answer a) := by
  constructor <;> simp [PortCtx.answer]

theorem PortCtx.refused_kept (c : PortCtx) : PortKept c c.refused := by
  constructor <;> simp [PortCtx.refused, PortCtx.answer, PortCtx.stopHold]

theorem PortCtx.takeLimits_kept (c : PortCtx) : PortKept c c.takeLimits := by
  constructor <;> simp [PortCtx.takeLimits]

theorem PortCtx.aborted_kept (setter : AbortSetter) (c : PortCtx) : PortKept c (c.aborted setter) := by
  constructor <;>
    simp only [PortCtx.aborted, PortCtx.abortFace, PortCtx.answer, PortCtx.stopTimers, PortCtx.stopHold,
      PortCtx.stopIdle] <;> split <;> (try split) <;> simp

theorem PortCtx.aborted_quarantined (setter : AbortSetter) (c : PortCtx) :
    (c.aborted setter).quarantined = c.quarantined := by
  simp only [PortCtx.aborted, PortCtx.abortFace, PortCtx.answer, PortCtx.stopTimers, PortCtx.stopHold,
      PortCtx.stopIdle]
  split <;> (try split) <;> simp

theorem PortCtx.enterManagement_kept (dir : Dir) (c : PortCtx) : PortKept c (c.enterManagement dir) := by
  cases dir <;> constructor <;> simp [PortCtx.enterManagement, PortCtx.answer]

theorem PortCtx.enterManagement_quarantined (dir : Dir) (c : PortCtx) :
    (c.enterManagement dir).quarantined = c.quarantined := by
  cases dir <;> simp [PortCtx.enterManagement, PortCtx.answer]

theorem Sgc.formStart_kept (c : Sgc) (h : c.line = .idle ∨ c.line = .busWait) : SgcKept c c.formStart := by
  unfold Sgc.formStart Sgc.loadSettings
  by_cases r : c.retry = 0 <;> simp only [r, beq_self_eq_true, if_true, beq_iff_eq, if_false] <;>
    refine ⟨rfl, rfl, rfl, fun ok => ?_⟩ <;> obtain ⟨a1, a2, a3, a4, a5, a6, a7, a8⟩ := ok <;>
    constructor <;> rcases h with h | h <;> simp_all [LineState.master]

theorem Sgc.beginAddress_kept (low : Bool) (d : Dest) (dir : Dir) (c : Sgc) : SgcKept c (c.beginAddress low d dir) := by
  unfold Sgc.beginAddress
  split
  · rename_i h
    split
    · refine ⟨rfl, rfl, rfl, fun ok => ?_⟩
      obtain ⟨a1, a2, a3, a4, a5, a6, a7, a8⟩ := ok
      constructor <;> simp_all [LineState.master]
    · refine SgcKept.trans (d := { c with retry := 0, inHand := some ⟨d, dir⟩ }) ⟨rfl, rfl, rfl, fun ok => ?_⟩
        (Sgc.formStart_kept _ (.inl h))
      obtain ⟨a1, a2, a3, a4, a5, a6, a7, a8⟩ := ok
      exact ⟨a1, a2, a3, Nat.zero_le _, a5, a6, a7, a8⟩
  · refine ⟨rfl, rfl, rfl, fun ok => ?_⟩
    obtain ⟨a1, a2, a3, a4, a5, a6, a7, a8⟩ := ok
    constructor <;> simp_all [LineState.master]
  all_goals exact .refl _

theorem Sgc.released_kept (c : Sgc) : SgcKept c c.released := by
  refine ⟨rfl, rfl, rfl, fun ok => ?_⟩
  obtain ⟨a1, a2, a3, a4, a5, a6, a7, a8⟩ := ok
  exact ⟨a1, a2, a3, Nat.zero_le _, a5, a6, a7, a8⟩

/-! ### Refusals and quarantine -/

theorem State.refuse_kept (s : State) (p : Port) (b : RecordBody) : Kept s (s.refuse p b) :=
  (Kept.modPort s p _ (PortCtx.refused_kept _) rfl).trans (State.writeRecord_kept _ _ _)

theorem State.enterQuarantine_kept (s : State) (p : Port) : Kept s (s.enterQuarantine p) := by
  unfold State.enterQuarantine
  refine Kept.trans (t := (s.modPort p fun c => { c with quarantined := true, quarantineHeld := false }).setLeases
    (s.leases.filter fun l => l.holder != p)) ?_ ((Kept.foldl _ (fun t l => State.writeRecord_kept _ _ _) _ _).trans
      (State.writeRecord_kept _ _ _))
  refine ⟨rfl, rfl, rfl, rfl, rfl, rfl, List.filter_sublist, fun q h => ?_, fun q => ?_, fun _ => .refl _, fun _ => .refl _⟩
  · by_cases e : q = p
    · subst e; right
      simp [State.leasesHeld, State.setLeases, List.filter_filter]
    · rw [State.port_setLeases, State.port_modPort_ne _ _ _ e] at h; exact .inl h
  · rw [State.port_setLeases]
    by_cases e : q = p
    · subst e; rw [State.port_modPort_same]; constructor <;> simp
    · rw [State.port_modPort_ne _ _ _ e]; exact .refl _

/-! ### Claims and grants -/

theorem State.beginOn_kept (s : State) (sg : Seg) (d : Dest) (dir : Dir) : Kept s (s.beginOn sg d dir) :=
  Kept.modSgc s sg _ (Sgc.beginAddress_kept _ _ _ _)

theorem State.openSingle_kept (s : State) (p : Port) : Kept s (s.openSingle p) := by
  have h : Kept s (s.modPort p fun c => { c with phase := .opening }) :=
    Kept.modPort s p _ (by constructor <;> simp) rfl
  unfold State.openSingle
  simp only
  split
  · exact h.trans (State.beginOn_kept _ _ _ _)
  · exact h
  · exact h

/-- R51: a grant that a withdrawal on its way meets opens the port and asks no SGC to begin. -/
theorem State.openSingle_withdrawn (s : State) (p : Port) (h : (s.port p).withdrawal ≠ none) :
    s.openSingle p = s.modPort p fun c => { c with phase := .opening } := by
  unfold State.openSingle
  simp only
  split
  · contradiction
  · rfl
  · rfl

theorem State.markMember_kept (s : State) (p : Port) (sg : Seg) (m : Mark) : Kept s (s.markMember p sg m) :=
  Kept.modPort s p _ (by constructor <;> simp) rfl

theorem State.dropMember_kept (s : State) (p : Port) (sg : Seg) (why : RefusalReason) : Kept s (s.dropMember p sg why) :=
  ((State.markMember_kept s p sg _).trans (Kept.modPort _ p _ (by constructor <;> simp) rfl)).trans
    (State.writeRecord_kept _ _ _)

theorem State.acquisitionEnd_kept (s : State) (p : Port) : Kept s (s.acquisitionEnd p) := by
  unfold State.acquisitionEnd
  split
  · exact Kept.modPort s p _ (PortCtx.refused_kept _) rfl
  · exact (Kept.modPort s p _ (by constructor <;> simp) rfl).trans
      (Kept.foldl _ (fun t sg => State.beginOn_kept t sg _ _) _ _)

theorem State.acquire_kept (p : Port) (sgs : List Seg) (s : State) : Kept s (State.acquire p sgs s) := by
  induction sgs generalizing s with
  | nil => exact State.acquisitionEnd_kept s p
  | cons sg rest ih =>
    unfold State.acquire
    split
    · split
      · exact (State.dropMember_kept s p sg _).trans (ih _)
      · exact ((Kept.modSeg s sg _).trans (State.markMember_kept _ p sg _)).trans (ih _)
      · exact Kept.modSeg s sg _
    · exact ih s

theorem State.acquireNext_kept (s : State) (p : Port) : Kept s (s.acquireNext p) := by
  unfold State.acquireNext
  split
  · exact State.acquire_kept _ _ _
  · exact .refl s

/-- R118: a port whose withdrawal is on its way makes no further claim. -/
theorem State.acquireNext_withdrawn (s : State) (p : Port) (h : (s.port p).withdrawal ≠ none) : s.acquireNext p = s := by
  unfold State.acquireNext
  split
  · contradiction
  · rfl

theorem State.grantHead_kept (s : State) (sg : Seg) : Kept s (s.grantHead sg) := by
  unfold State.grantHead
  split
  · exact .refl s
  · simp only
    split
    · exact ((Kept.modSeg s sg _).trans (Kept.modSeg _ sg _)).trans (State.openSingle_kept _ _)
    · exact (((Kept.modSeg s sg _).trans (Kept.modSeg _ sg _)).trans (State.markMember_kept _ _ _ _)).trans
        (State.acquireNext_kept _ _)

theorem State.claimSingle_kept (s : State) (p : Port) (r : Route) : Kept s (s.claimSingle p r) := by
  have h : Kept s (s.modPort p fun c =>
      { c.startHold with phase := .claim, route := some r, bset := none, bytesMoved := 0, abortReported := false
                         refusalLeft := false, withdrawal := none, sclHeld := true }) :=
    Kept.modPort s p _ (by constructor <;> simp [PortCtx.startHold]) rfl
  unfold State.claimSingle
  simp only
  split
  · exact h.trans (State.refuse_kept _ _ _)
  · exact (h.trans (Kept.modSeg _ _ _)).trans (State.openSingle_kept _ _)
  · exact h.trans (Kept.modSeg _ _ _)

theorem State.formBroadcast_kept (s : State) (p : Port) : Kept s (s.formBroadcast p) := by
  unfold State.formBroadcast
  simp only
  split
  · exact (Kept.foldl _ (fun t x => State.writeRecord_kept _ _ _) _ _).trans
      (Kept.modPort _ p _ (PortCtx.refused_kept _) rfl)
  · refine ((Kept.foldl _ (fun t x => State.writeRecord_kept _ _ _) _ _).trans
      (Kept.modPort _ p _ ?_ rfl)).trans (State.acquire_kept _ _ _)
    constructor <;> simp [PortCtx.startHold]

/-! ### Resolution and releases -/

theorem State.resolve_kept (s : State) (p : Port) (b : AddrByte) : Kept s (s.resolve p b) := by
  have h : Kept s (s.modPort p fun c => { c.takeLimits with heldAddr := none, readPos := none, out := none }) :=
    Kept.modPort s p _ (by constructor <;> simp [PortCtx.takeLimits]) rfl
  unfold State.resolve
  simp only
  split
  · exact h.trans (Kept.modPort _ p _ (PortCtx.refused_kept _) rfl)
  · exact h.trans (State.formBroadcast_kept _ _)
  · exact h.trans (Kept.modPort _ p _ (PortCtx.enterManagement_kept _ _) (PortCtx.enterManagement_quarantined _ _))
  · exact h.trans (State.refuse_kept _ _ _)
  · exact h.trans (State.claimSingle_kept _ _ _)

theorem State.takeCause_kept (s : State) (p : Port) (sg : Seg) (cause : Option AbortCause) :
    Kept s (s.takeCause p sg cause) := by
  unfold State.takeCause
  split
  · exact .refl s
  · simp only
    split
    · exact (State.writeRecord_kept _ _ _).trans (Kept.modPort _ p _ (by constructor <;> simp) rfl)
    · exact Kept.modPort _ p _ (by constructor <;> simp) rfl

theorem State.actOnPending_kept (s : State) (p : Port) (pend : Pending) : Kept s (s.actOnPending p pend) := by
  unfold State.actOnPending
  split
  all_goals first
    | exact State.resolve_kept _ _ _
    | exact Kept.modPort _ p _ (by constructor <;> simp) rfl

theorem State.finishRelease_kept (s : State) (p : Port) (pend : Pending) : Kept s (s.finishRelease p pend) := by
  have h : Kept s (s.modPort p fun c =>
      { c.stopTimers with route := none, bset := none, release := none
                          errCount := if endedByStop pend && !c.abortReported then 0 else c.errCount }) := by
    refine Kept.modPort s p _ ?_ rfl
    constructor <;> simp only [PortCtx.stopTimers, PortCtx.stopHold, PortCtx.stopIdle] <;> (try split) <;> simp
  unfold State.finishRelease
  simp only
  split
  · exact (h.trans (State.enterQuarantine_kept _ _)).trans (State.actOnPending_kept _ _ _)
  · exact h.trans (State.actOnPending_kept _ _ _)

theorem State.portReleased_kept (s : State) (p : Port) : Kept s (s.portReleased p) := by
  unfold State.portReleased
  split
  · split
    · exact State.finishRelease_kept _ _ _
    · exact .refl s
  · exact .refl s

theorem State.releaseSeg_kept (s : State) (sg : Seg) (cause : Option AbortCause) : Kept s (s.releaseSeg sg cause) := by
  unfold State.releaseSeg
  split
  · exact .refl s
  · simp only
    refine Kept.trans ?_ (State.portReleased_kept _ _)
    have h := ((Kept.modSgc s sg _ (Sgc.released_kept _)).trans (State.takeCause_kept _ (by assumption : Owner).port sg cause)).trans
      (Kept.modSeg _ sg fun r => { r with owner := none })
    split
    · exact h.trans (State.grantHead_kept _ _)
    · exact h

/-- A line state other than FOREIGN, IDLE, RECOVERY and FAULTED, taken from one in which the part is master, keeps the
controller's invariant. -/
theorem Sgc.masterLine_kept (c d : Sgc) (l : LineState) (hc : c.line.master = true) (hl : l.master = true)
    (hd : d.line = l) (hb : d.busBusy = c.busBusy) (hr : d.retry = c.retry) (ha : d.activeStuck = c.activeStuck)
    (hp : d.pendingStuck = c.pendingStuck) (hq : d.pendingRate = c.pendingRate) (hf : d.broadcastFlag = c.broadcastFlag)
    (hk : d.freeCheck = c.freeCheck) (ho : d.origin = c.origin) : SgcKept c d := by
  refine ⟨hq, hp, hf, fun ok => ?_⟩
  obtain ⟨a1, a2, a3, a4, a5, a6, a7, a8⟩ := ok
  have hc1 : c.line ≠ .recovery := by intro e; simp [e, LineState.master] at hc
  have hc2 : c.line ≠ .faulted := by intro e; simp [e, LineState.master] at hc
  have hl1 : l ≠ .recovery := by intro e; simp [e, LineState.master] at hl
  have hl2 : l ≠ .foreign := by intro e; simp [e, LineState.master] at hl
  constructor
  · rw [hd]; intro e; exact absurd e hl2
  · rw [hb]; intro _; exact a3 hc
  · rw [hb]; intro _; exact a3 hc
  · rw [hr]; exact a4
  · rw [ha]; exact a5
  · rw [hp]; exact a6
  · rw [hk]; intro e; rcases a7 e with m | m
    · exact absurd m hc1
    · exact absurd m hc2
  · rw [ho, hd, a8, beq_eq_false_iff_ne.mpr hc1, beq_eq_false_iff_ne.mpr hl1, Bool.false_and, Bool.false_and]

theorem State.closeSeg_kept (s : State) (sg : Seg) : Kept s (s.closeSeg sg) := by
  unfold State.closeSeg
  split <;> rename_i h
  · exact State.releaseSeg_kept _ _ _
  · exact State.releaseSeg_kept _ _ _
  · refine (Kept.modSgc s sg _ ?_).trans (State.releaseSeg_kept _ _ _)
    refine ⟨rfl, rfl, rfl, fun ok => ?_⟩
    obtain ⟨a1, a2, a3, a4, a5, a6, a7, a8⟩ := ok
    by_cases b : (s.sgc sg).busBusy = true <;> constructor <;> simp_all [LineState.master]
  · refine Kept.modSgc s sg _ (Sgc.masterLine_kept _ _ .address ?_ rfl ?_ rfl rfl rfl rfl rfl rfl rfl rfl) <;> simp_all [LineState.master]
  · refine Kept.modSgc s sg _ (Sgc.masterLine_kept _ _ .write ?_ rfl ?_ rfl rfl rfl rfl rfl rfl rfl rfl) <;> simp_all [LineState.master]
  · refine Kept.modSgc s sg _ (Sgc.masterLine_kept _ _ .read ?_ rfl ?_ rfl rfl rfl rfl rfl rfl rfl rfl) <;> simp_all [LineState.master]
  · refine Kept.modSgc s sg _ (Sgc.masterLine_kept _ _ .stopping ?_ rfl rfl rfl rfl rfl rfl rfl rfl rfl rfl) ; simp_all [LineState.master]
  · refine Kept.modSgc s sg _ (Sgc.masterLine_kept _ _ .stopping ?_ rfl rfl rfl rfl rfl rfl rfl rfl rfl rfl) ; simp_all [LineState.master]
  all_goals exact .refl s

theorem State.closeAll_kept (s : State) (p : Port) : Kept s (s.closeAll p) := by
  unfold State.closeAll
  split
  · exact State.portReleased_kept _ _
  · exact Kept.foldl _ State.closeSeg_kept _ _

/-! ### Aborts and results -/

theorem State.abortPort_kept (s : State) (p : Port) (cause : AbortCause) : Kept s (s.abortPort p cause) :=
  (Kept.modPort s p _ (PortCtx.aborted_kept _ _) (PortCtx.aborted_quarantined _ _)).trans (State.writeRecord_kept _ _ _)

theorem State.abortMember_kept (s : State) (p : Port) (sg : Seg) (cause : AbortCause) :
    Kept s (s.abortMember p sg cause) :=
  (Kept.modPort s p _ (by constructor <;> simp) rfl).trans (State.writeRecord_kept _ _ _)

theorem State.handAbort_kept (s : State) (o : Owner) (sg : Seg) (cause : AbortCause) : Kept s (s.handAbort o sg cause) := by
  unfold State.handAbort
  split
  · exact State.abortPort_kept _ _ _
  · exact State.abortMember_kept _ _ _ _

theorem State.collect_kept (s : State) (p : Port) : Kept s (s.collect p) := by
  unfold State.collect
  simp only
  split
  · split
    · split
      all_goals
        refine Kept.modPort s p _ ?_ rfl
        constructor <;> simp [PortCtx.answer, PortCtx.stopHold, PortCtx.startIdle]
    · split
      · exact .refl s
      · split
        all_goals
          refine Kept.modPort s p _ ?_ rfl
          constructor <;> simp [PortCtx.answer, PortCtx.countByte, PortCtx.startIdle]
    all_goals exact .refl s
  · exact .refl s

theorem State.dropNacked_kept (s : State) (p : Port) (sg : Seg) : Kept s (s.dropNacked p sg) :=
  ((State.markMember_kept _ _ _ _).trans (State.closeSeg_kept _ _)).trans (State.collect_kept _ _)

/-- R85, R86: a cause that ends the controller's work keeps everything, if the controller's own part of it does. -/
theorem State.endWithCause_kept (s : State) (sg : Seg) (cause : AbortCause) (f : Sgc → Sgc)
    (hf : ∀ t : State, t.sgc sg = s.sgc sg → SgcKept (t.sgc sg) (f (t.sgc sg))) : Kept s (s.endWithCause sg cause f) := by
  have hsg : ∀ o, ((s.handAbort o sg cause).sgc sg) = s.sgc sg := by
    intro o; unfold State.handAbort; split <;> rfl
  unfold State.endWithCause
  split
  · exact .refl s
  · split
    · exact ((Kept.modSgc s sg f (hf s rfl)).trans (State.releaseSeg_kept _ _ _)).trans (State.collect_kept _ _)
    · exact (((State.handAbort_kept _ _ _ _).trans (Kept.modSgc _ sg f (hf _ (hsg _)))).trans
        (State.releaseSeg_kept _ _ _)).trans (State.collect_kept _ _)

/-! ### An address byte resolved leaves no result to collect -/

theorem markIn_cons (a : Member) (rest : List Member) (x : Seg) :
    markIn (a :: rest) x = if a.seg = x then some a.mark else markIn rest x := by
  by_cases f : a.seg = x <;> simp [markIn, f]

theorem markIn_setMark (set : List Member) (sg x : Seg) (m : Mark) :
    markIn (setMark set sg m) x = if x = sg then (markIn set x).map fun _ => m else markIn set x := by
  induction set with
  | nil => simp [markIn, setMark]
  | cons a rest ih =>
    have e : setMark (a :: rest) sg m = (if a.seg == sg then { a with mark := m } else a) :: setMark rest sg m := rfl
    rw [e, markIn_cons, markIn_cons, ih]
    by_cases f : a.seg = x
    · subst f; by_cases g : a.seg = sg <;> simp [g]
    · have h : (if a.seg == sg then { a with mark := m } else a).seg = a.seg := by split <;> rfl
      rw [if_neg (fun w => f (h.symm.trans w)), if_neg f]

theorem State.markOf_markMember (s : State) (p : Port) (sg x : Seg) (m : Mark) :
    (s.markMember p sg m).markOf p x = if x = sg then (s.markOf p x).map fun _ => m else s.markOf p x := by
  unfold State.markOf State.markMember
  rw [State.port_modPort_same]
  cases (s.port p).bset with
  | none => simp
  | some set => exact markIn_setMark set sg x m

/-- The segments of the port's set that are OWNED, and those that no port owns, are not PARKED. -/
structure State.unparked (s : State) (p : Port) : Prop where
  unowned : s.parkedOwned
  owned : ∀ x, s.markOf p x = some .owned → (s.sgc x).line ≠ .parked

/-- No result of a broadcast is complete: the port collects none, or a segment still OWNED is not PARKED. -/
def State.uncollected (s : State) (p : Port) : Prop :=
  (s.port p).bset = none ∨ (s.port p).phase = .idle ∨ (s.port p).phase = .claim ∨ ∃ x, s.markOf p x = some .owned ∧ (s.sgc x).line ≠ .parked

theorem State.collect_uncollected (s : State) (p : Port) (h : s.uncollected p) : s.collect p = s := by
  unfold State.collect
  simp only
  split
  · rename_i c
    simp only [Bool.and_eq_true] at c
    rcases h with h | h | h | ⟨x, hx, hl⟩
    · simp [h] at c
    · rw [h]
    · rw [h]
    · have r := c.2
      simp only [State.resultsIn, State.ownedMembers, List.all_eq_true, List.mem_filter, beq_iff_eq] at r
      exact absurd (r x ⟨Seg.mem_all x, hx⟩) hl
  · rfl

theorem State.beginOn_unparked (s : State) (sg x : Seg) (d : Dest) (dir : Dir) (h : (s.sgc x).line ≠ .parked) :
    ((s.beginOn sg d dir).sgc x).line ≠ .parked := by
  unfold State.beginOn
  by_cases e : x = sg
  · subst e
    rw [State.sgc_modSgc_same]
    unfold Sgc.beginAddress Sgc.formStart
    split <;> (try split) <;> simp_all
  · rw [State.sgc_modSgc_ne _ _ _ e]; exact h

theorem State.beginAll_keeps (sgs : List Seg) (s : State) (p : Port) (x : Seg) (h : (s.sgc x).line ≠ .parked) :
    ((sgs.foldl (fun t sg => t.beginOn sg .generalCall .write) s).sgc x).line ≠ .parked ∧
    (sgs.foldl (fun t sg => t.beginOn sg .generalCall .write) s).port p = s.port p := by
  induction sgs generalizing s with
  | nil => exact ⟨h, rfl⟩
  | cons a rest ih => exact ih _ (State.beginOn_unparked s a x _ _ h)

theorem State.acquisitionEnd_uncollected (s : State) (p : Port) (h : s.unparked p) :
    (s.acquisitionEnd p).uncollected p := by
  unfold State.acquisitionEnd
  split
  · exact .inl (by simp [PortCtx.refused])
  · rename_i e
    obtain ⟨x, rest, eq⟩ := List.exists_cons_of_ne_nil e
    have mem : x ∈ s.ownedMembers p := by rw [eq]; exact List.mem_cons_self
    have hx : s.markOf p x = some .owned := by simpa [State.ownedMembers] using (List.mem_filter.mp mem).2
    obtain ⟨hl, hp⟩ := State.beginAll_keeps (s.ownedMembers p) (s.modPort p fun c => { c with phase := .opening }) p x
      (h.owned x hx)
    refine .inr (.inr (.inr ⟨x, ?_, hl⟩))
    unfold State.markOf at hx ⊢
    rw [hp, State.port_modPort_same]
    exact hx

theorem State.acquire_uncollected (p : Port) (sgs : List Seg) (s : State) (h : s.unparked p)
    (hp : (s.port p).phase = .claim) : (State.acquire p sgs s).uncollected p := by
  induction sgs generalizing s with
  | nil => exact State.acquisitionEnd_uncollected s p h
  | cons sg rest ih =>
    unfold State.acquire
    split
    · split
      · refine ih _ ⟨h.unowned, fun x hx => ?_⟩ ?_
        · refine h.owned x ?_
          have : (s.markMember p sg .dropped).markOf p x = some .owned := by
            simpa [State.markOf, State.dropMember, State.writeRecord] using hx
          rw [State.markOf_markMember] at this
          split at this
          · cases e : s.markOf p x <;> simp [e] at this
          · exact this
        · simp [State.dropMember, State.writeRecord, State.markMember, hp]
      · rename_i hg
        have free : (s.seg sg).owner = none := by
          unfold State.arrival at hg
          split at hg
          · contradiction
          · split at hg
            · contradiction
            · split at hg
              · assumption
              · contradiction
        refine ih _ ⟨fun x hx => ?_, fun x hx => ?_⟩ ?_
        · refine h.unowned x ?_
          by_cases e : x = sg
          · subst e; exact free
          · simpa [State.markMember, State.setOwner, State.seg_modSeg_ne _ _ _ e] using hx
        · by_cases e : x = sg
          · subst e; exact h.unowned x free
          · rw [State.markOf_markMember, if_neg e] at hx
            exact h.owned x hx
        · simp [State.markMember, State.setOwner, hp]
      · exact .inr (.inr (.inl hp))
    · exact ih s h hp

theorem State.formBroadcast_uncollected (s : State) (p : Port)
    (h : s.parkedOwned) : (s.formBroadcast p).uncollected p := by
  unfold State.formBroadcast
  simp only
  split
  · exact .inl (by simp [PortCtx.refused])
  · rename_i members e
    have same : ∀ (l : List (Seg × Byte)) (t : State) (x : Seg),
        ((l.foldl (fun t x => t.writeRecord p (refusalRecord (.reservedElsewhere x.2) (some 0) (some x.1))) t).seg x = t.seg x) ∧
        ((l.foldl (fun t x => t.writeRecord p (refusalRecord (.reservedElsewhere x.2) (some 0) (some x.1))) t).sgc x = t.sgc x) := by
      intro l
      induction l with
      | nil => exact fun t x => ⟨rfl, rfl⟩
      | cons a rest ih => exact fun t x => ih _ x
    refine State.acquire_uncollected p Seg.all _ ⟨fun x hx => ?_, fun x hx => ?_⟩ (by simp)
    · rw [State.seg_modPort, (same _ _ _).1] at hx
      rw [State.sgc_modPort, (same _ _ _).2]
      exact h x hx
    · exfalso
      have pend : ∀ m ∈ s.broadcastMembers p, m.mark = .pending := by
        intro m hm
        simp only [State.broadcastMembers, List.mem_map] at hm
        obtain ⟨_, _, rfl⟩ := hm
        rfl
      simp only [State.markOf, State.port_modPort_same, markIn, Option.map_eq_some_iff] at hx
      obtain ⟨m, hm, ho⟩ := hx
      have := pend m (List.mem_of_find?_eq_some hm)
      rw [this] at ho
      contradiction

/-- An address byte resolved in a port with no set leaves the port nothing to collect. -/
theorem State.collect_resolve (s : State) (p : Port) (b : AddrByte) (h : s.parkedOwned) (hs : (s.port p).bset = none) :
    (s.resolve p b).collect p = s.resolve p b := by
  refine State.collect_uncollected _ p ?_
  unfold State.resolve
  simp only
  split
  · exact .inl (by simp [PortCtx.refused])
  · exact State.formBroadcast_uncollected _ p h
  · rename_i dir _
    refine .inl ?_
    cases dir <;> simp [PortCtx.enterManagement, PortCtx.answer, PortCtx.takeLimits, hs]
  · exact .inl (by simp [State.refuse, State.writeRecord, PortCtx.refused])
  · refine .inl ?_
    unfold State.claimSingle
    simp only
    split
    · simp [State.refuse, State.writeRecord, PortCtx.refused]
    · unfold State.openSingle
      simp only
      split <;> simp [State.setOwner, State.beginOn]
    · simp [State.enqueueClaim]
/-! ### Flushes and withdrawals -/

theorem State.refuseClaim_kept (why : RefusalReason) (sg : Seg) (s : State) (c : Claim) :
    Kept s (State.refuseClaim why sg s c) := by
  unfold State.refuseClaim
  split
  · exact State.refuse_kept _ _ _
  · exact (State.dropMember_kept _ _ _ _).trans (State.acquireNext_kept _ _)

theorem State.dropIfPending_kept (why : RefusalReason) (sg : Seg) (s : State) (p : Port) :
    Kept s (State.dropIfPending why sg s p) := by
  unfold State.dropIfPending
  split
  · exact State.dropMember_kept _ _ _ _
  · exact .refl s

theorem State.conditionLeft_kept (s : State) (sg : Seg) : Kept s (s.conditionLeft sg) :=
  ((Kept.modSeg s sg _).trans (Kept.foldl _ (State.refuseClaim_kept _ sg) _ _)).trans
    (Kept.foldl _ (State.dropIfPending_kept _ sg) _ _)

theorem State.leaseHandOver_kept (s : State) (l : Lease) : Kept s (s.leaseHandOver l) :=
  ((Kept.modSeg s _ _).trans (Kept.foldl _ (State.refuseClaim_kept _ _) _ _)).trans
    (Kept.foldl _ (State.dropIfPending_kept _ _) _ _)

theorem State.withdraw_kept (s : State) (p : Port) (sg : Seg) : Kept s (s.withdraw p sg) := Kept.modSeg s sg _

/-- R89, where the controller is master or waits for its lines. -/
theorem State.stuckDetected_kept (s : State) (sg : Seg) (line : BusLine)
    (h1 : (s.sgc sg).line ≠ .recovery) (h2 : (s.sgc sg).line ≠ .faulted) : Kept s (s.stuckDetected sg line) := by
  have hset : ∀ (t : State) (q : Port), t.sgc sg = s.sgc sg →
      Kept t (t.modSgc sg fun c => { c with origin := some (.automatic q), line := .recovery }) := by
    intro t q e
    refine Kept.modSgc t sg _ ⟨rfl, rfl, rfl, fun ok => ?_⟩
    rw [e] at ok ⊢
    obtain ⟨a1, a2, a3, a4, a5, a6, a7, a8⟩ := ok
    have hk : (s.sgc sg).freeCheck = false := by
      cases hk : (s.sgc sg).freeCheck with
      | false => rfl
      | true => rcases a7 hk with m | m <;> contradiction
    constructor <;> simp_all [LineState.master]
  have hsg : ∀ o, ((s.handAbort o sg (.stuck line)).sgc sg) = s.sgc sg := by
    intro o; unfold State.handAbort; split <;> rfl
  unfold State.stuckDetected
  split
  · exact .refl s
  · simp only
    refine Kept.trans (Kept.trans (Kept.trans ?_ (State.conditionLeft_kept _ _)) (State.releaseSeg_kept _ _ _))
      (State.collect_kept _ _)
    split
    · exact hset _ _ rfl
    · exact (State.handAbort_kept _ _ _ _).trans (hset _ _ (hsg _))

/-! ### Expiries -/

theorem Kept.setLeases (s : State) (ls : List Lease) (h : ls.Sublist s.leases) : Kept s (s.setLeases ls) :=
  ⟨rfl, rfl, rfl, rfl, rfl, rfl, h, fun _ => .inl, fun _ => .refl _, fun _ => .refl _, fun _ => .refl _⟩

theorem State.expireLease_kept (s : State) (id : Byte) : Kept s (s.expireLease id) := by
  unfold State.expireLease
  split
  · exact .refl s
  · exact (Kept.setLeases s _ List.filter_sublist).trans (State.writeRecord_kept _ _ _)

theorem State.leaseExpiry_kept (s : State) (id : Byte) : Kept s (s.leaseExpiry id) := by
  unfold State.leaseExpiry
  split
  · split
    · exact State.expireLease_kept s id
    · exact .refl s
  · exact .refl s

/-- An expiry taken before the count of its lease has run out changes nothing. -/
theorem State.leaseExpiry_notDue (s : State) (id : Byte) (h : ∀ l, s.leaseOf id = some l → l.due = false) :
    s.leaseExpiry id = s := by
  unfold State.leaseExpiry
  split
  · rename_i l e; simp [h l e]
  · rfl

theorem State.expireAddress_kept (s : State) (p : Port) (sg : Option Seg) : Kept s (s.expireAddress p sg) := by
  refine ((Kept.modPort s p _ ?_ ?_).trans (State.writeRecord_kept _ _ _)).trans (State.closeAll_kept _ _)
  · constructor <;> simp [PortCtx.answer, PortCtx.stopTimers, PortCtx.stopHold, PortCtx.stopIdle]
  · rfl

theorem State.withdrawSingle_kept (s : State) (p : Port) (r : Route) : Kept s (s.withdrawSingle p r) := by
  unfold State.withdrawSingle
  split
  · exact (State.withdraw_kept s p _).trans (State.refuse_kept _ _ _)
  · exact .refl s

theorem State.expireAcquisition_kept (s : State) (p : Port) : Kept s (s.expireAcquisition p) := by
  unfold State.expireAcquisition
  split
  · exact (State.withdraw_kept s p _).trans (State.expireAddress_kept _ p _)
  · exact State.expireAddress_kept s p _

theorem State.sendWithdrawal_kept (s : State) (p : Port) (sg : Seg) : Kept s (s.sendWithdrawal p sg) :=
  Kept.modPort s p _ (by constructor <;> simp) rfl

theorem State.expireHold_kept (s : State) (p : Port) : Kept s (s.expireHold p) := by
  unfold State.expireHold
  simp only
  split <;> first
    | exact State.expireAcquisition_kept s p
    | exact State.withdrawSingle_kept s p _
    | exact State.expireAddress_kept s p _
    | exact .refl s

theorem State.holdExpiry_kept (s : State) (p : Port) (crossing : Bool) : Kept s (s.holdExpiry p crossing) := by
  unfold State.holdExpiry
  split
  · exact .refl s
  · split
    · exact State.sendWithdrawal_kept s p _
    · exact State.expireHold_kept s p

end Sys2Proof.Machine
end

