-- ==== Sys2Proof/Tests/Slice0.lean ====
section
/-! SUPPORT. The model's own tests: operands that WellFormed refuses, bytes the manual writes out, and for each statement
with hypotheses a state and operands that meet them, clause by clause. -/

namespace Sys2Proof.Tests

open Sys2Proof.Machine

/-! ### WellFormed refuses -/

theorem test_leaseIdZeroIsIllFormed : WellFormed (.leaseExpiry 0) = false := by decide

theorem test_tenPulsesAreIllFormed :
    WellFormed (.recoveryFailure .s0 ⟨true, false, List.replicate 10 ⟨true, false⟩, true, true⟩) = false := by decide

theorem test_repeatedSegmentIsIllFormed : WellFormed (.stopDone .s0 [.s1, .s1]) = false := by decide

theorem test_ninePulsesAreWellFormed :
    WellFormed (.recoveryFailure .s0 ⟨true, false, List.replicate 9 ⟨true, false⟩, true, true⟩) = true := by decide

theorem test_portClockedTwiceIsIllFormed : WellFormed (.switchReset .u0 ⟨[], [.u1, .u1]⟩) = false := by decide

theorem test_repeatedLowSegmentIsIllFormed : WellFormed (.switchReset .u0 ⟨[.s2, .s2], []⟩) = false := by decide

theorem test_holdExpiryRepeatedLowIsIllFormed : WellFormed (.holdExpiry .u0 ⟨[.s2, .s2], false⟩) = false := by decide

/-- No row of the table gives bits, so no word spells a command. -/
theorem test_noWordSpellsACommand : decodeTableWord 8 0x20 = none ∧ State.reset.withFetchWord 8 0x20 = State.reset := by
  decide

/-! ### Bytes the manual writes out -/

/-- Table 10-8, step 2. -/
theorem test_reserveMessage :
    messageBytes 0x20 [0x04, 0x00, 0x01, 0xF4] = [0x20, 0x04, 0x00, 0x01, 0xF4, 0xE7] ∧
    Message.parse ⟨[0x20, 0x04, 0x00, 0x01, 0xF4, 0xE7], false⟩ = .command .reserve [0x04, 0x00, 0x01, 0xF4] ∧
    durationOf 0x01 0xF4 = some 500 := by decide

/-- Table 10-8, step 4. -/
theorem test_reserveReply : Reply.bytes ⟨.ok, [0x04]⟩ = [0x00, 0x01, 0x04, 0xFB] := by decide

/-- R165: NO_REPLY, a length of 0 and the check byte. -/
theorem test_replyAfterReset : Reply.bytes PortCtx.reset.reply = [0x01, 0x00, 0xFF] := by decide

/-! ### States for the witnesses -/

/-- An entry of the route map: 0x50 leads every port to device 0x30 on S0. -/
def entry : RouteEntry := ⟨0x50, .s0, 0x30, ⟨true, true, true, true⟩, ⟨true, true⟩⟩

/-- The part some time after a device reset: U0 is privileged, every segment is IDLE, one entry is in the map. -/
def quiet : State :=
  { State.reset with
    straps := ⟨false, false, ⟨true, false, false, false⟩⟩, map := [entry]
    sgcs := State.reset.sgcs.mapAll fun _ c => { c with line := .idle, busBusy := false } }

/-- The route that the entry gives a write to 0x50. -/
def route : Route := ⟨0x50, .s0, 0x30, .write⟩

/-- U0 owns S0 as SINGLE. -/
def owning (phase : Phase) (line : LineState) : State :=
  ((quiet.modPort .u0 fun c => { c with phase := phase, route := some route }).modSeg .s0 fun r =>
    { r with owner := some ⟨.u0, .single⟩ }).modSgc .s0 fun c => { c with line := line }

/-- U0 has a release pending and S0's STOP is being sent. -/
def closing (e : Ending) : State := (owning .awaitEnd .stopping).modPort .u0 fun c => { c with release := some (.ending e) }

/-- U0 owns S0 as a member of a broadcast set. -/
def broadcasting (set : List Member) (phase : Phase) (line : LineState) : State :=
  ((quiet.modPort .u0 fun c => { c with phase := phase, bset := some set, sclHeld := true }).modSeg .s0 fun r =>
    { r with owner := some ⟨.u0, .broadcast⟩ }).modSgc .s0 fun c =>
    { c with line := line, inHand := some ⟨.generalCall, .write⟩ }

/-- The port has handed over a message. -/
def asks (s : State) (p : Port) (id : Byte) (args : List Byte) : State :=
  s.modPort p fun c => { c with handed := some ⟨messageBytes id args, false⟩ }

/-- U0 has handed over a message. -/
def asking (id : Byte) (args : List Byte) : State := asks quiet .u0 id args

/-- A lease of U1 on one device, and a whole-segment lease of U0 that is due to expire. -/
def leaseA : Lease := ⟨1, .u1, .s0, some 0x30, 60000, false⟩
def leaseB : Lease := ⟨255, .u0, .s1, none, 1, true⟩

/-- The state with those two leases. -/
def leased (s : State) : State := { s with leases := [leaseA, leaseB], nextLeaseId := 2 }

/-- The full table: four leases of U0 and four of U1. -/
def eight : List Lease :=
  (List.range 8).map fun n => ⟨BitVec.ofNat 8 (n + 1), if n < 4 then .u0 else .u1, .s1, some (BitVec.ofNat 7 (n + 8)), 1, false⟩

/-- A full route map, below 0x50. -/
def thirtyTwo : List RouteEntry := (List.range 32).map fun n => { entry with visible := BitVec.ofNat 7 (n + 0x20) }

/-- A log of n records. -/
def records (n : Nat) : List Record :=
  List.replicate n ⟨0, false, ⟨.leaseExpired, none, some .s0, none, some 1, .zero⟩⟩

/-- A segment controller in a line state. -/
def lineIs (line : LineState) : State := quiet.modSgc .s0 fun c => { c with line := line }

theorem entryOk_of (st : Straps) (e : RouteEntry) (h : e.visible = 0x50 ∧ e.downstream = 0x30 ∧ e.ports.u0 = true ∧
    e.access.read = true) : EntryOk st e := by
  obtain ⟨hv, hd, hp, ha⟩ := h
  refine ⟨hv ▸ ⟨by decide, by decide⟩, ?_, hd ▸ ⟨by decide, by decide⟩, ⟨.u0, hp⟩, .inl ha⟩
  rw [hv]
  rcases st with ⟨_ | _, _ | _, c⟩ <;> simp only [mgmtAddress] <;> decide

theorem mapOk_of (s : State) (e : RouteEntry) (h : s.map = [e]) (he : e.visible = 0x50 ∧ e.downstream = 0x30 ∧
    e.ports.u0 = true ∧ e.access.read = true) : MapOk s := by
  refine ⟨by rw [h]; simp, by rw [h]; exact List.pairwise_singleton _ _, fun x hx => ?_⟩
  rw [h, List.mem_singleton] at hx
  exact entryOk_of _ x (hx ▸ he)

theorem leaseTableOk_of (s : State) (ls : List Lease) (h : s.leases = ls) (hn : s.nextLeaseId ≠ 0)
    (hq : ∀ p, (s.port p).quarantined = false) (hl : ls.length ≤ 8)
    (hp : ∀ p ∈ Port.all, (ls.filter fun l => l.holder == p).length ≤ 4)
    (ha : ls.Pairwise fun a b => a.id.toNat < b.id.toNat) (hd : ls.Pairwise fun a b => a.overlaps b.seg b.target = false)
    (hr : ∀ l ∈ ls, l.id ≠ 0 ∧ (∀ a ∈ l.target, 8 ≤ a.toNat ∧ a.toNat ≤ 0x77) ∧ 1 ≤ l.remaining.toNat ∧
      l.remaining.toNat ≤ 60000 ∧ (l.due = true → l.remaining.toNat = 1)) : LeaseTableOk s := by
  subst h
  refine ⟨hl, fun p => hp p (by cases p <;> decide), ha, hd, fun l hm => ?_, hn, fun p h => ?_⟩
  · exact ⟨(hr l hm).1, (hr l hm).2.1, ⟨(hr l hm).2.2.1, (hr l hm).2.2.2.1⟩, (hr l hm).2.2.2.2⟩
  · rw [hq p] at h; cases h

theorem noLeasesOk (s : State) (h : s.leases = []) (hn : s.nextLeaseId ≠ 0)
    (hq : ∀ p, (s.port p).quarantined = false) : LeaseTableOk s :=
  leaseTableOk_of s [] h hn hq (by decide) (by decide) (by decide) (by decide) (by decide)

theorem leasedOk (s : State) (hq : ∀ p, (s.port p).quarantined = false) : LeaseTableOk (leased s) :=
  leaseTableOk_of _ [leaseA, leaseB] rfl (by simp [leased]) hq (by decide) (by decide) (by decide) (by decide) (by decide)

/-- OwnershipOk from what can be read off each segment, each port and each mark. -/
theorem ownershipOk_of (s : State)
    (claims : ∀ sg, ∀ c ∈ (s.seg sg).waitList, (s.port c.port).phase = .claim ∧
      (∀ w ∈ (s.port c.port).withdrawal, sg = w) ∧
      (c.dest ≠ .generalCall → (s.port c.port).bset = none ∧ (s.port c.port).route.map (·.seg) = some sg) ∧
      (c.dest = .generalCall → s.markOf c.port sg = some .pending))
    (once : ∀ p, (Seg.all.flatMap fun sg => (s.seg sg).waitList.filter fun c => c.port == p).length ≤ 1)
    (segments : ∀ sg,
      ((s.seg sg).owner = none → (s.sgc sg).line ∈ ([.idle, .foreign, .recovery, .faulted] : List LineState)) ∧
      ∀ o ∈ (s.seg sg).owner,
        (s.port o.port).phase ∈ ([.claim, .opening, .fwdWrite, .fwdRead, .awaitEnd] : List Phase) ∧
        (o.kind = .single → (s.port o.port).phase ≠ .claim ∧ s.ownedBy o.port = [sg]) ∧
        (o.kind = .broadcast → (s.sgc sg).broadcastFlag = true ∧ (s.markOf o.port sg = some .owned ∨
          (s.markOf o.port sg = some .dropped ∧ (s.port o.port).phase ≠ .claim))) ∧
        ((s.port o.port).phase = .claim → (s.sgc sg).line = .idle ∨ (s.sgc sg).line = .foreign) ∧
        ((s.sgc sg).line = .stopping ∨ (s.port o.port).release ≠ none → (s.sgc sg).closing = true))
    (marks : ∀ p sg, (s.markOf p sg = some .owned → (s.port p).phase = .claim →
      (s.seg sg).owner = some ⟨p, .broadcast⟩) ∧ (s.markOf p sg = some .pending → (s.sgc sg).broadcastFlag = true))
    (ports : ∀ p, ((s.port p).release ≠ none → (s.port p).phase = .awaitEnd) ∧
      ((s.port p).idle.running = true →
        (s.port p).phase ∈ ([.opening, .fwdWrite, .fwdRead, .awaitEnd] : List Phase)) ∧
      ((s.port p).heldAddr ≠ none → (s.port p).phase = .idle ∨ (s.port p).phase = .mgmtWrite)) : OwnershipOk s where
  claimPhase sg c h := (claims sg c h).1
  claimOnce := once
  withdrawn _ w h sg c hc e := (claims sg c hc).2.1 w (e ▸ h)
  singleClaim sg _ _ h := (claims sg _ h).2.2.1 nofun
  broadcastClaim sg _ h := (claims sg _ h).2.2.2 rfl
  ownPhase sg o h := ((segments sg).2 o h).1
  singleOwner sg _ h := ((segments sg).2 _ h).2.1 rfl
  broadcastOwner sg _ h := (((segments sg).2 _ h).2.2.1 rfl).2
  ownedMark sg p := (marks p sg).1
  flagged sg p h := h.elim (marks p sg).2 fun e => (((segments sg).2 _ e).2.2.1 rfl).1
  acquiring sg o h := ((segments sg).2 o h).2.2.2.1
  unowned sg := (segments sg).1
  closes sg o h := ((segments sg).2 o h).2.2.2.2
  releasePhase p := (ports p).1
  idlePhase p := (ports p).2.1
  heldPhase p := (ports p).2.2

/-! ### One step each, on small states -/

/-- Table 10-8: U1's RESERVE(S4, whole, 500) with the counter at 4 is answered with the bytes of step 4. -/
theorem test_reserveOfTable10_8 :
    ∃ t, exec (.reserve .u1 []) (asks { quiet with nextLeaseId := 4 } .u1 0x20 [0x04, 0x00, 0x01, 0xF4]) = .next t ∧
      (t.port .u1).reply.bytes = [0x00, 0x01, 0x04, 0xFB] ∧ t.leases = [⟨4, .u1, .s4, none, 500, false⟩] ∧ t.nextLeaseId = 5 :=
  ⟨_, rfl, by decide, by decide, by decide⟩

/-- R47, R49, R76: an address byte that the map leads to an idle segment owns it, and its START is formed. -/
theorem test_addressOwnsTheSegment :
    ∃ t, exec (.addressByte .u0 ⟨0x50, .write⟩ []) quiet = .next t ∧ (t.seg .s0).owner = some ⟨.u0, .single⟩ ∧
      (t.sgc .s0).line = .address ∧ (t.port .u0).phase = .opening :=
  ⟨_, rfl, by decide, by decide, by decide⟩

/-- R26: a step with no command waiting takes one millisecond from each lease and expires the one that was due. -/
theorem test_millisecond :
    ∃ t, step (leased quiet) = .next t ∧ t.leases = [{ leaseA with remaining := 59999 }] ∧
      (t.log .u0).records.length = 1 :=
  ⟨_, rfl, by decide, by decide⟩

/-- R26, R28: a lease whose count has not run out does not expire. -/
theorem test_leaseNotDueStays : exec (.leaseExpiry 1) (leased quiet) = .next (leased quiet) := rfl

/-- R28, Table 2-2: after a RENEW taken first, no expiry follows at the old time. -/
theorem test_noExpiryAtTheOldTime :
    ∃ t, exec (.renew .u0 []) (leased (asking 0x21 (255 :: wordBytes 1))) = .next t ∧
      exec (.leaseExpiry 255) t = .next t ∧ { leaseB with due := false } ∈ t.leases :=
  ⟨_, rfl, rfl, by decide⟩

/-- Table 4-9: a recovery that a switch reset has abandoned drives neither line. -/
theorem test_abandonedRecoveryReleasesTheLines (c : Sgc) :
    clockDrive { c with line := .recovery, freeCheck := true } = .released ∧
    dataDrive { c with line := .recovery, freeCheck := true } = .released := ⟨rfl, rfl⟩

/-! ### The hypotheses of the statements, met clause by clause -/

theorem test_hyps_EmptyQueuePassesAMillisecond :
    quiet.pending = [] ∧ (∀ l ∈ ({ quiet with leases := [leaseA, { leaseB with due := false }] } : State).leases, l.due = false) ∧
    leaseB ∈ (leased quiet).leases ∧ leaseB.due = true ∧
    (∀ m ∈ (leased quiet).leases, m ≠ leaseB → m.id ≠ leaseB.id ∧ m.due = false) := by
  repeat' apply And.intro
  all_goals decide

theorem test_hyps_UnansweredAddressIsSilentlyNacked : ∃ s : State,
    (s.port .u0).fresh ∧ (s.port .u0).quarantined = true ∧ (quiet.port .u0).fresh ∧
    (0x50 : Addr) ≠ mgmtAddress quiet.straps ∧ (0 : Addr) ≠ mgmtAddress quiet.straps ∧
    (0x51 : Addr) ≠ mgmtAddress quiet.straps ∧ (∀ e ∈ quiet.map, e.visible = 0x51 → e.ports.get .u0 = false) := by
  refine ⟨quiet.modPort .u0 fun c => { c with quarantined := true }, ?_⟩
  repeat' apply And.intro
  all_goals first
    | decide
    | (constructor <;> decide)

theorem test_hyps_RefusedAddressLeavesOneRecord :
    (quiet.port .u0).fresh ∧ (quiet.port .u0).quarantined = false ∧
    MapOk { quiet with map := [{ entry with access := ⟨true, false⟩ }] } ∧ LeaseTableOk quiet ∧
    Access.allows ⟨true, false⟩ .write = false ∧ MapOk (leased quiet) ∧ LeaseTableOk (leased quiet) ∧
    entry ∈ quiet.map ∧ entry.visible = 0x50 ∧ entry.ports.get .u0 = true ∧ leaseA ∈ (leased quiet).leases ∧
    leaseA.holder ≠ .u0 ∧ leaseA.covers .s0 (.device 0x30) = true ∧
    (lineIs .faulted).leads .u0 ⟨0x50, .write⟩ entry ∧ (lineIs .faulted).condition .s0 ≠ .available ∧
    MapOk (lineIs .faulted) ∧ LeaseTableOk (lineIs .faulted) ∧ (lineIs .recovery).leads .u0 ⟨0x50, .read⟩ entry ∧
    (lineIs .recovery).condition .s0 ≠ .available := by
  repeat' apply And.intro
  all_goals first
    | exact mapOk_of _ _ rfl (by decide)
    | (constructor <;> decide)
    | (intro q; cases q)
    | exact leasedOk _ (by intro q; cases q <;> decide)
    | exact noLeasesOk _ rfl (by decide) (by intro q; cases q <;> decide)

theorem test_hyps_ClaimOfFreeSegmentIsGranted :
    (quiet.port .u0).fresh ∧ (quiet.port .u0).quarantined = false ∧ MapOk quiet ∧
    quiet.leads .u0 ⟨0x50, .write⟩ entry ∧ (quiet.seg .s0).owner = none ∧ (quiet.sgc .s0).line = .idle ∧
    Seg.s0 ∉ [Seg.s1] ∧ Seg.s0 ∈ [Seg.s0] ∧ ((lineIs .foreign).sgc .s0).line = .foreign ∧
    (lineIs .foreign).leads .u0 ⟨0x50, .read⟩ entry ∧ MapOk (lineIs .foreign) := by
  repeat' apply And.intro
  all_goals first
    | decide
    | exact mapOk_of _ _ rfl (by decide)
    | (constructor <;> decide)

theorem test_hyps_ClaimOfOwnedSegmentJoinsTheTail : ∃ s : State,
    (s.port .u0).fresh ∧ s.leads .u0 ⟨0x50, .write⟩ entry ∧ MapOk s ∧ (s.seg .s0).owner = some ⟨.u1, .broadcast⟩ ∧
    s.condition .s0 = .available ∧
    (s.port .u0).quarantined = false := by
  refine ⟨quiet.modSeg .s0 fun r => { r with owner := some ⟨.u1, .broadcast⟩ }, ?_⟩
  repeat' apply And.intro
  all_goals first
    | exact mapOk_of _ _ rfl (by decide)
    | (constructor <;> decide)

theorem test_hyps_ManagementAddressIsAcked :
    (quiet.port .u0).fresh ∧ (0x1C : Addr) = mgmtAddress quiet.straps ∧
    ((quiet.modPort .u0 fun c => { c with quarantined := true }).port .u0).fresh := by
  repeat' apply And.intro
  all_goals (constructor <;> decide)

/-- The phases in which a port takes an address byte as a new one, beside IDLE: DRAIN, and the RS that ends a management
read or a management write of no byte. -/
theorem test_hyps_fresh : ∃ s t u : State, (s.port .u0).fresh ∧ (s.port .u0).phase = .drain ∧ (t.port .u0).fresh ∧
    (t.port .u0).phase = .mgmtRead ∧ (u.port .u0).fresh ∧ (u.port .u0).phase = .mgmtWrite := by
  refine ⟨quiet.modPort .u0 fun c => { c with phase := .drain }, quiet.modPort .u0 fun c => { c with phase := .mgmtRead },
    quiet.modPort .u0 fun c => { c with phase := .mgmtWrite }, ?_⟩
  repeat' apply And.intro
  all_goals first
    | rfl
    | exact ⟨by decide, rfl, rfl⟩

/-- The broadcast flag is set on S0 alone. -/
def flagged : State := quiet.modSgc .s0 fun c => { c with broadcastFlag := true }

/-- The broadcast flag is set on every segment, S2 is owned by U1 and S4 is not AVAILABLE. -/
def crowded : State :=
  { (quiet.modSeg .s2 fun r => { r with owner := some ⟨.u1, .single⟩ }) with
    sgcs := quiet.sgcs.mapAll fun sg c =>
      { c with broadcastFlag := true, line := if sg = .s4 then .faulted else if sg = .s2 then .parked else .idle } }

/-- No segment of the set is owned. -/
def free : State := crowded.modSeg .s2 fun r => { r with owner := none }

theorem test_hyps_BroadcastIsFormedOrNacked : ∃ s : State,
    (quiet.port .u0).fresh ∧ (∀ sg, (quiet.sgc sg).broadcastFlag = false) ∧ flagged.onlyFlagged .s0 ∧
    (leased flagged).onlyFlagged .s0 ∧ flagged.condition .s0 = .available ∧ LeaseTableOk (leased flagged) ∧
    leaseA ∈ (leased flagged).leases ∧ leaseA.seg = .s0 ∧ leaseA.holder ≠ .u0 ∧
    (∀ m ∈ (leased flagged).leases, m.seg = .s0 → m.holder ≠ .u0 → leaseA.id.toNat ≤ m.id.toNat) ∧
    (flagged.port .u0).fresh ∧ (∀ sg, (leased flagged).receives .u0 sg = false) ∧
    (leased flagged).shutOut .u0 = [(.s0, 1)] ∧ (crowded.port .u0).fresh ∧ crowded.receives .u0 .s2 = true ∧
    (crowded.seg .s2).owner = some ⟨.u1, .single⟩ ∧ crowded.receives .u0 .s4 = false ∧
    (∀ x, (crowded.receives .u0 x && decide ((segCode x).toNat < (segCode .s2).toNat)) = true →
      (crowded.seg x).owner = none) ∧
    Seg.all.filter (s.receives .u0) = [.s0, .s1, .s2, .s3, .s5] ∧ (s.port .u0).fresh ∧
    (∀ x, s.receives .u0 x = true → (s.seg x).owner = none ∧ ((s.sgc x).line = .idle ∨ (s.sgc x).line = .foreign)) := by
  refine ⟨free.modSgc .s2 fun c => { c with line := .foreign }, ?_⟩
  repeat' apply And.intro
  all_goals first
    | decide
    | (constructor <;> decide)
    | (intro q; cases q <;> decide)
    | exact leasedOk _ (by intro q; cases q <;> decide)

theorem test_hyps_RepeatedStartKeepsTheSegment : ∃ s t : State,
    (s.port .u0).phase = .fwdWrite ∧ (s.port .u0).release = none ∧ (s.port .u0).sclHeld = false ∧
    (t.port .u0).phase = .awaitEnd ∧ (t.port .u0).release = none ∧ (t.port .u0).sclHeld = false ∧ MapOk s ∧
    s.leads .u0 ⟨0x50, .read⟩ entry ∧ (s.seg .s0).owner = some ⟨.u0, .single⟩ ∧ (s.sgc .s0).line = .parked ∧
    (s.port .u0).quarantined = false ∧ (t.port .u0).quarantined = false ∧ MapOk t ∧ t.leads .u0 ⟨0x50, .read⟩ entry ∧
    (t.seg .s0).owner = some ⟨.u0, .single⟩ ∧ (t.sgc .s0).line = .parked := by
  refine ⟨owning .fwdWrite .parked, owning .awaitEnd .parked, ?_⟩
  repeat' apply And.intro
  all_goals first
    | exact mapOk_of _ _ rfl (by decide)
    | (constructor <;> decide)

/-- U0 owns S0 and S2 as a broadcast, S0 PARKED and S2 sending the STOP of its drop. -/
def spread (phase : Phase) : State :=
  ((broadcasting [⟨.s0, .owned⟩, ⟨.s2, .dropped⟩] phase .parked).modSeg .s2 fun r =>
    { r with owner := some ⟨.u0, .broadcast⟩ }).modSgc .s2 (fun c => { c with line := .stopping, closing := true })
  |>.modPort .u0 fun c => { c with sclHeld := false, idle := ⟨30, true⟩, hold := ⟨20, true⟩ }

theorem test_hyps_AddressIsHeldForTheRelease : ∃ s t u : State,
    s.ready .u0 ∧ s.keptRoute .u0 ⟨0x51, .write⟩ = none ∧
    ((closing .stop).port .u0).release = some (.ending .stop) ∧ ((closing .stop).port .u0).phase = .awaitEnd ∧
    ((closing .stop).port .u0).sclHeld = false ∧
    (s.port .u0).phase = .awaitEnd ∧ (s.port .u0).release = none ∧ (s.port .u0).sclHeld = false ∧
    (spread .fwdWrite).ready .u0 ∧ (spread .fwdWrite).keptRoute .u0 ⟨0x50, .write⟩ = none ∧
    ((spread .fwdWrite).port .u0).phase = .fwdWrite ∧ ((spread .fwdWrite).port .u0).sclHeld = false ∧
    ((spread .fwdWrite).port .u0).release = none ∧ t.ready .u0 ∧ t.keptRoute .u0 ⟨0x50, .write⟩ = none ∧
    (t.port .u0).phase = .fwdWrite ∧ (t.port .u0).sclHeld = false ∧ (t.port .u0).release = none ∧
    (u.port .u0).phase = .awaitEnd ∧ (u.port .u0).release = none ∧ u.ownedBy .u0 = [] ∧
    (u.port .u0).quarantineHeld = false ∧ (u.port .u0).sclHeld = false := by
  refine ⟨owning .awaitEnd .parked, (owning .fwdWrite .parked).setMap [{ entry with access := ⟨true, false⟩ }],
    quiet.modPort .u0 fun c => { c with phase := .awaitEnd, bset := some [⟨.s1, .dropped⟩] }, ?_⟩
  repeat' apply And.intro
  all_goals first
    | decide
    | (intro q; cases q <;> decide)

theorem test_hyps_UpstreamBytesAreHandedDown : ∃ s t u : State,
    s.single .u0 .s0 ∧ (s.sgc .s0).line = .parked ∧ (s.sgc .s0).dataDir = some .write ∧
    (quiet.port .u0).phase = .idle ∧ (quiet.port .u0).sclHeld = false ∧ (t.port .u0).phase = .fwdRead ∧
    (t.port .u0).sclHeld = false ∧ t.single .u0 .s0 ∧ (t.sgc .s0).line = .ackHold ∧
    (s.port .u0).phase = .fwdWrite ∧ (s.port .u0).release = none ∧ (s.port .u0).sclHeld = false ∧
    (u.port .u0).phase = .fwdWrite ∧ (u.port .u0).release = none ∧ (u.port .u0).sclHeld = false ∧
    (u.port .u0).bset = some [⟨.s0, .owned⟩, ⟨.s2, .dropped⟩] ∧
    (∀ x, markIn [⟨.s0, .owned⟩, ⟨.s2, .dropped⟩] x = some .owned →
      (u.sgc x).line = .parked ∧ (u.sgc x).dataDir = some .write) := by
  refine ⟨(owning .fwdWrite .parked).modSgc .s0 fun c => { c with dataDir := some .write },
    owning .fwdRead .ackHold, (spread .fwdWrite).modSgc .s0 fun c => { c with dataDir := some .write }, ?_⟩
  repeat' apply And.intro
  all_goals first
    | (constructor <;> decide)
    | (intro q; cases q <;> decide)

theorem test_hyps_UpstreamStopEndsTheTransaction : ∃ s t u v : State,
    s.ready .u0 ∧ (s.port .u0).release = none ∧ (t.port .u0).phase = .drain ∧
    (t.port .u0).sclHeld = false ∧ (u.port .u0).release = some (.ending (.abort .cause)) ∧
    (u.port .u0).phase = .awaitEnd ∧
    (s.port .u0).phase = .fwdWrite ∧ (s.port .u0).sclHeld = false ∧ (u.port .u0).sclHeld = false ∧
    (quiet.port .u0).phase = .idle ∧ (quiet.port .u0).sclHeld = false ∧ (spread .awaitEnd).ready .u0 ∧
    ((spread .awaitEnd).port .u0).phase = .awaitEnd ∧ ((spread .awaitEnd).port .u0).release = none ∧
    ((spread .awaitEnd).port .u0).sclHeld = false ∧ (v.port .u0).phase = .awaitEnd ∧ (v.port .u0).release = none ∧
    v.ownedBy .u0 = [] ∧ (v.port .u0).quarantineHeld = false ∧ (v.port .u0).sclHeld = false := by
  refine ⟨owning .fwdWrite .parked,
    quiet.modPort .u0 fun c => { c with phase := .drain, errCount := 3 },
    closing (.abort .cause),
    quiet.modPort .u0 fun c => { c with phase := .awaitEnd, errCount := 3, bset := some [⟨.s1, .dropped⟩] }, ?_⟩
  repeat' apply And.intro
  all_goals first
    | decide
    | (intro q; cases q <;> decide)

theorem test_hyps_UpstreamErrorAbortsTheTransaction : ∃ s t u : State,
    (s.port .u0).route = some route ∧ s.single .u0 route.seg ∧ (s.port .u0).errCount ≤ 3 ∧
    (s.port .u0).errCount = 3 ∧ (s.port .u0).release = none ∧ (s.port .u0).sclHeld = false ∧
    (s.port .u0).quarantined = false ∧ (s.port .u0).phase = .fwdWrite ∧ (s.sgc .s0).line = .parked ∧
    (t.port .u0).route = some route ∧ t.single .u0 route.seg ∧ (t.port .u0).errCount ≤ 3 ∧
    (t.port .u0).errCount = 3 ∧ (t.port .u0).release = none ∧ (t.port .u0).sclHeld = false ∧
    (t.port .u0).quarantined = false ∧ (t.port .u0).phase = .fwdRead ∧ (t.sgc .s0).line = .ackHold ∧
    (u.port .u0).errCount = 3 ∧ (u.port .u0).release = none ∧ (u.port .u0).sclHeld = false ∧
    (u.port .u0).quarantined = false ∧ (u.port .u0).phase = .fwdWrite ∧ (u.port .u0).bset ≠ none ∧ u.ready .u0 := by
  refine ⟨owning .fwdWrite .parked |>.modPort .u0 fun c => { c with errCount := 3 },
    owning .fwdRead .ackHold |>.modPort .u0 fun c => { c with errCount := 3 },
    (spread .fwdWrite).modPort .u0 fun c => { c with errCount := 3 }, ?_⟩
  repeat' apply And.intro
  all_goals first
    | (constructor <;> decide)
    | decide
    | (intro q; cases q <;> decide)

/-- A STOP in MGMT_READ. -/
theorem test_hyps_UpstreamStopEndsTheTransaction_read : ∃ s : State,
    (s.port .u0).phase = .mgmtRead ∧ (s.port .u0).sclHeld = false :=
  ⟨quiet.modPort .u0 fun c => { c with phase := .mgmtRead, readPos := some 2 }, rfl, rfl⟩

/-- A broadcast that owns nothing, by its error count. -/
def emptied (count : Nat) : State :=
  quiet.modPort .u0 fun c => { c with phase := .awaitEnd, errCount := count, bset := some [⟨.s1, .dropped⟩] }

/-- ABORT pending on U0, by its error count. -/
def aborting (count : Nat) : State := (closing (.abort .cause)).modPort .u0 fun c => { c with errCount := count }

/-- An error in a broadcast that owns nothing, and with ABORT pending, up to the third error and at the fourth. -/
theorem test_hyps_UpstreamErrorAbortsTheTransaction_more :
    (∀ n ∈ [2, 3], ((emptied n).port .u0).release = none ∧ ((emptied n).port .u0).sclHeld = false ∧
      ((emptied n).port .u0).errCount ≤ 3 ∧ ((emptied n).port .u0).errCount = n ∧
      ((emptied n).port .u0).quarantined = false ∧ ((emptied n).port .u0).phase = .awaitEnd ∧
      ((emptied n).port .u0).bset ≠ none ∧ (emptied n).ownedBy .u0 = [] ∧
      ((emptied n).port .u0).quarantineHeld = false) ∧
    ∀ n ∈ [0, 3, 4], ((aborting n).port .u0).phase = .awaitEnd ∧
      ((aborting n).port .u0).release = some (.ending (.abort .cause)) ∧ ((aborting n).port .u0).sclHeld = false ∧
      (aborting n).ownedBy .u0 ≠ [] ∧ ((aborting n).port .u0).quarantined = false ∧
      ((aborting n).port .u0).errCount = n := by decide

theorem test_hyps_FourthErrorQuarantinesAPortThatOwnsNothing : ∃ s : State,
    (s.port .u0).phase = .drain ∧ (s.port .u0).sclHeld = false ∧ (s.port .u0).errCount = 3 ∧
    (s.port .u0).quarantined = false ∧ s.ownedBy .u0 = [] := by
  refine ⟨quiet.modPort .u0 fun c => { c with phase := .drain, errCount := 3 }, ?_⟩
  repeat' apply And.intro
  all_goals decide

theorem test_hyps_ErrorCutsAManagementPhase : ∃ s t u : State,
    (s.port .u0).phase = .mgmtWrite ∧ (s.port .u0).sclHeld = false ∧ (s.port .u0).errCount ≤ 2 ∧
    (t.port .u0).phase = .mgmtRead ∧ (t.port .u0).errCount ≤ 2 ∧
    (t.port .u0).sclHeld = false ∧ (u.port .u0).phase = .mgmtWrite ∧ (u.port .u0).sclHeld = false ∧
    (u.port .u0).errCount = 3 ∧ (u.port .u0).quarantined = false ∧ u.ownedBy .u0 = [] := by
  refine ⟨quiet.modPort .u0 fun c => { c with phase := .mgmtWrite, errCount := 2 },
    quiet.modPort .u0 fun c => { c with phase := .mgmtRead, errCount := 2, readPos := some 2 },
    quiet.modPort .u0 fun c => { c with phase := .mgmtWrite, errCount := 3 }, ?_⟩
  repeat' apply And.intro
  all_goals decide

/-- A port whose count is 4 in a management phase, and one in DRAIN below the fourth error and after it. -/
theorem test_hyps_ErrorCutsAManagementPhase_more : ∃ s t : State,
    (s.port .u0).phase = .mgmtWrite ∧ (s.port .u0).sclHeld = false ∧ (s.port .u0).errCount = 4 ∧
    (t.port .u0).phase = .drain ∧ (t.port .u0).sclHeld = false ∧ (t.port .u0).errCount ≤ 2 ∧
    ((t.modPort .u0 fun c => { c with errCount := 4 }).port .u0).errCount = 4 := by
  refine ⟨quiet.modPort .u0 fun c => { c with phase := .mgmtWrite, errCount := 4, quarantined := true },
    quiet.modPort .u0 fun c => { c with phase := .drain, errCount := 2 }, ?_⟩
  repeat' apply And.intro
  all_goals decide

theorem test_hyps_ManagementWriteIsStoredAndHandedOver : ∃ s t : State,
    (s.port .u0).phase = .mgmtWrite ∧ (s.port .u0).message.bytes.length < 16 ∧ (t.port .u0).phase = .mgmtWrite ∧
    16 ≤ (t.port .u0).message.bytes.length ∧
    ((quiet.modPort .u0 fun c => { c with phase := .mgmtWrite, message := ⟨List.replicate 1 0, false⟩ }).port .u0).message.bytes ≠ [] ∧
    ((quiet.modPort .u0 fun c => { c with phase := .mgmtWrite, errCount := 2 }).port .u0).message.bytes = [] := by
  refine ⟨quiet.modPort .u0 fun c => { c with phase := .mgmtWrite, message := ⟨List.replicate 15 0, false⟩ },
    quiet.modPort .u0 fun c => { c with phase := .mgmtWrite, message := ⟨List.replicate 16 0, false⟩ }, ?_⟩
  repeat' apply And.intro
  all_goals decide

theorem test_hyps_ReplyIsReadByteByByte : ∃ s : State,
    (s.port .u0).phase = .mgmtRead ∧ (s.port .u0).readPos = some 2 := by
  refine ⟨quiet.modPort .u0 fun c => { c with phase := .mgmtRead, errCount := 2, readPos := some 2 }, ?_⟩
  repeat' apply And.intro
  all_goals decide

theorem test_hyps_StartIsFormedWhenTheLinesAreFree : ∃ s : State,
    ((lineIs .busWait).sgc .s0).line = .busWait ∧ ((lineIs .busWait).sgc .s0).busBusy = false ∧
    ((lineIs .busWait).sgc .s0).retry = 0 ∧ (s.sgc .s0).line = .busWait ∧ (s.sgc .s0).busBusy = false ∧
    (s.sgc .s0).retry ≠ 0 := by
  refine ⟨(lineIs .busWait).modSgc .s0 fun c => { c with retry := 3 }, ?_⟩
  repeat' apply And.intro
  all_goals decide

theorem test_hyps_AddressAcknowledgeIsRelayed : ∃ s t u v : State,
    (s.seg .s0).owner = some ⟨.u0, .single⟩ ∧ (s.sgc .s0).line = .address ∧ (s.sgc .s0).closing = false ∧
    (s.sgc .s0).inHand = some ⟨.device 0x30, .write⟩ ∧ (t.seg .s0).owner = some ⟨.u0, .single⟩ ∧
    (t.sgc .s0).line = .address ∧ (t.sgc .s0).closing = false ∧ (t.sgc .s0).inHand = some ⟨.device 0x30, .read⟩ ∧
    (u.sgc .s0).line = .address ∧ (u.sgc .s0).closing = true ∧ (u.sgc .s0).inHand = some ⟨.device 0x30, .write⟩ ∧
    (v.sgc .s0).line = .address ∧ (v.sgc .s0).closing = true ∧ (v.sgc .s0).inHand = some ⟨.device 0x30, .read⟩ := by
  refine ⟨(owning .opening .address).modSgc .s0 fun c => { c with inHand := some ⟨.device 0x30, .write⟩ },
    (owning .opening .address).modSgc .s0 fun c => { c with inHand := some ⟨.device 0x30, .read⟩ },
    (closing .hold).modSgc .s0 fun c =>
      { c with line := .address, closing := true, inHand := some ⟨.device 0x30, .write⟩ },
    (closing .hold).modSgc .s0 fun c =>
      { c with line := .address, closing := true, inHand := some ⟨.device 0x30, .read⟩ }, ?_⟩
  repeat' apply And.intro
  all_goals decide

theorem test_hyps_SegmentBytesAreRelayedUpstream : ∃ s t u : State,
    (s.seg .s0).owner = some ⟨.u0, .single⟩ ∧ (s.sgc .s0).line = .write ∧ (s.sgc .s0).closing = false ∧
    ((owning .fwdRead .read).seg .s0).owner = some ⟨.u0, .single⟩ ∧ ((owning .fwdRead .read).sgc .s0).line = .read ∧
    ((owning .fwdRead .read).sgc .s0).closing = false ∧ (t.seg .s0).owner = some ⟨.u0, .single⟩ ∧
    (t.sgc .s0).line = .read ∧ (t.sgc .s0).closing = true ∧ (u.sgc .s0).line = .write ∧
    (u.sgc .s0).closing = true := by
  refine ⟨owning .fwdWrite .write,
    (owning .fwdRead .read).modSgc .s0 fun c => { c with closing := true },
    (closing (.abort .switchReset)).modSgc .s0 fun c => { c with line := .write, closing := true }, ?_⟩
  repeat' apply And.intro
  all_goals decide

theorem test_hyps_BroadcastResultsAreCollected : ∃ s t u v : State,
    (s.seg .s0).owner = some ⟨.u0, .broadcast⟩ ∧ markIn [⟨.s0, .owned⟩, ⟨.s1, .dropped⟩] .s0 = some .owned ∧
    (s.port .u0).release = none ∧ (s.sgc .s0).closing = false ∧ (s.sgc .s0).line = .address ∧
    (s.port .u0).phase = .opening ∧ (s.port .u0).sclHeld = true ∧ (t.seg .s0).owner = some ⟨.u0, .broadcast⟩ ∧
    markIn [⟨.s0, .owned⟩, ⟨.s1, .owned⟩] .s0 = some .owned ∧ (t.port .u0).release = none ∧
    (t.sgc .s0).closing = false ∧ (t.sgc .s0).line = .address ∧ (t.port .u0).phase = .opening ∧
    (t.port .u0).sclHeld = true ∧ (u.seg .s0).owner = some ⟨.u0, .broadcast⟩ ∧
    markIn [⟨.s0, .owned⟩, ⟨.s1, .dropped⟩] .s0 = some .owned ∧ (u.port .u0).release = none ∧
    (u.sgc .s0).closing = false ∧ (u.sgc .s0).line = .write ∧ (u.port .u0).phase = .fwdWrite ∧
    (u.port .u0).sclHeld = true ∧ (v.seg .s0).owner = some ⟨.u0, .broadcast⟩ ∧
    markIn [⟨.s0, .owned⟩, ⟨.s1, .owned⟩] .s0 = some .owned ∧ (v.port .u0).release = none ∧
    (v.sgc .s0).closing = false ∧ (v.sgc .s0).line = .write ∧ (v.port .u0).phase = .fwdWrite ∧
    (v.port .u0).sclHeld = true ∧ (∀ x, x ≠ Seg.s0 → markIn [⟨.s0, .owned⟩, ⟨.s1, .dropped⟩] x ≠ some .owned) ∧
    (Seg.s1 ≠ .s0 ∧ markIn [⟨.s0, .owned⟩, ⟨.s1, .owned⟩] .s1 = some .owned ∧ (v.sgc .s1).line ≠ .parked) ∧
    (s.port .u0).bset = some [⟨.s0, .owned⟩, ⟨.s1, .dropped⟩] ∧ (t.port .u0).bset = some [⟨.s0, .owned⟩, ⟨.s1, .owned⟩] ∧
    (u.port .u0).bset = some [⟨.s0, .owned⟩, ⟨.s1, .dropped⟩] ∧ (v.port .u0).bset = some [⟨.s0, .owned⟩, ⟨.s1, .owned⟩] ∧
    (s.sgc .s0).inHand = some ⟨.generalCall, .write⟩ ∧ (t.sgc .s0).inHand = some ⟨.generalCall, .write⟩ := by
  refine ⟨broadcasting [⟨.s0, .owned⟩, ⟨.s1, .dropped⟩] .opening .address,
    broadcasting [⟨.s0, .owned⟩, ⟨.s1, .owned⟩] .opening .address,
    broadcasting [⟨.s0, .owned⟩, ⟨.s1, .dropped⟩] .fwdWrite .write,
    broadcasting [⟨.s0, .owned⟩, ⟨.s1, .owned⟩] .fwdWrite .write, ?_⟩
  repeat' apply And.intro
  all_goals first
    | constructor
    | (intro q; cases q <;> decide)

/-- U0 owns S0 and S1 as a broadcast, each in a line state. -/
def pair (phase : Phase) (line other : LineState) : State :=
  ((broadcasting [⟨.s0, .owned⟩, ⟨.s1, .owned⟩] phase line).modSeg .s1 fun r =>
    { r with owner := some ⟨.u0, .broadcast⟩ }).modSgc .s1 fun c => { c with line := other }

/-- A NACK by one member while the other has given its result, and while it has not. -/
theorem test_hyps_BroadcastResultsAreCollected_nack : ∃ s t : State,
    (s.seg .s0).owner = some ⟨.u0, .broadcast⟩ ∧ (s.port .u0).bset = some [⟨.s0, .owned⟩, ⟨.s1, .owned⟩] ∧
    markIn [⟨.s0, .owned⟩, ⟨.s1, .owned⟩] .s0 = some .owned ∧ (s.port .u0).release = none ∧
    (s.sgc .s0).closing = false ∧ (s.sgc .s0).line = .address ∧ (s.sgc .s0).inHand = some ⟨.generalCall, .write⟩ ∧
    (s.port .u0).phase = .opening ∧ (Seg.s1 ≠ .s0 ∧ markIn [⟨.s0, .owned⟩, ⟨.s1, .owned⟩] .s1 = some .owned) ∧
    (∀ x, x ≠ Seg.s0 → markIn [⟨.s0, .owned⟩, ⟨.s1, .owned⟩] x = some .owned → (s.sgc x).line = .parked) ∧
    (t.seg .s0).owner = some ⟨.u0, .broadcast⟩ ∧ (t.port .u0).bset = some [⟨.s0, .owned⟩, ⟨.s1, .owned⟩] ∧
    (t.port .u0).release = none ∧ (t.sgc .s0).closing = false ∧ (t.sgc .s0).line = .write ∧
    (t.port .u0).phase = .fwdWrite ∧ (t.port .u0).sclHeld = true ∧
    ∀ x, x ≠ Seg.s0 → markIn [⟨.s0, .owned⟩, ⟨.s1, .owned⟩] x = some .owned → (t.sgc x).line = .parked := by
  refine ⟨pair .opening .address .parked, pair .fwdWrite .write .parked, ?_⟩
  repeat' apply And.intro
  all_goals first
    | decide
    | (intro q; cases q <;> decide)

/-- One member of a broadcast at work while another has its result to give, by its line state and retry count: a stuck
clock, a condition seen, a loss below the limit, at it and in a data byte. -/
theorem test_hyps_memberAtWork (phase : Phase) (line : LineState) (n : Nat) :
    let s := (pair phase line .write).modSgc .s0 fun c => { c with retry := n }
    s.memberAtWork .u0 .s0 [⟨.s0, .owned⟩, ⟨.s1, .owned⟩] ∧ (s.sgc .s0).line = line ∧ (s.sgc .s0).retry = n ∧
      s.unwanted .s0 := by
  have busy : LineState.write ≠ .parked := by decide
  have owned : some Mark.owned ≠ some .pending := by decide
  refine ⟨⟨rfl, rfl, rfl, rfl, rfl, .s1, by decide, rfl, busy⟩, rfl, rfl, rfl, fun q => ?_⟩
  cases q <;> first | exact owned | exact nofun

/-- U0 owns S0 as SINGLE with its clock held; an RS is being formed, or a NACK released, at a retry count. -/
def underway (phase : Phase) (line : LineState) (n : Nat) : State :=
  ((owning phase line).modPort .u0 fun c => { c with sclHeld := true }).modSgc .s0 fun c =>
    { c with retry := n, formingRs := true, nackOut := true }

/-- A single transaction under way, by its phase, line state and retry count. -/
theorem test_hyps_underWay (phase : Phase) (line : LineState) (n : Nat) :
    let s := underway phase line n
    s.underWay .u0 route ∧ s.unwanted route.seg ∧ (s.port .u0).phase = phase ∧ (s.port .u0).sclHeld = true ∧
      (s.sgc .s0).line = line ∧ (s.sgc .s0).busBusy = false ∧ (s.sgc .s0).retry = n ∧ (s.sgc .s0).formingRs = true ∧
      (s.sgc .s0).nackOut = true := by
  refine ⟨⟨⟨rfl, rfl, rfl⟩, rfl, rfl, rfl, rfl⟩, ⟨rfl, fun q => ?_⟩, rfl, rfl, rfl, rfl, rfl, rfl, rfl⟩
  cases q <;> exact nofun

/-- The bytes and the START at which a cause can end it. -/
theorem test_hyps_underWay_points :
    (underway .opening .address 0).awaitsByte .u0 .s0 ∧ (underway .fwdWrite .write 0).awaitsByte .u0 .s0 ∧
      (underway .fwdRead .read 0).awaitsByte .u0 .s0 ∧ (underway .opening .busWait 3).awaitsLines .s0 :=
  ⟨.inl ⟨rfl, rfl⟩, .inr (.inl ⟨rfl, rfl, rfl⟩), .inr (.inr ⟨rfl, rfl⟩), rfl, rfl⟩

/-- S0 is in a close with this pending. -/
def cutting (pend : Option Pending) (line : LineState) (quarantined : Bool) : State :=
  ((owning .awaitEnd line).modPort .u0 fun c => { c with release := pend, quarantineHeld := quarantined }).modSgc .s0 fun c =>
    { c with closing := true, formingRs := true, nackOut := true }

/-- A close of a port's last segment, by what is pending and the line state: every row of Table 7-4, and, with nothing
pending, AWAIT_END. -/
theorem test_hyps_closeCutShort (pend : Option Pending) (line : LineState) (quarantined : Bool) :
    let s := cutting pend line quarantined
    (s.seg .s0).owner = some ⟨.u0, .single⟩ ∧ (s.sgc .s0).closing = true ∧ s.unwanted .s0 ∧ (s.sgc .s0).line = line ∧
      (s.sgc .s0).formingRs = true ∧ (s.sgc .s0).nackOut = true ∧ (s.port .u0).release = pend ∧
      (s.port .u0).quarantineHeld = quarantined ∧ (s.port .u0).phase = .awaitEnd ∧ s.ownedBy .u0 = [.s0] ∧
      s.parkedOwned := by
  refine ⟨rfl, rfl, ⟨rfl, fun q => ?_⟩, rfl, rfl, rfl, rfl, rfl, rfl, rfl, fun x h => ?_⟩
  · cases q <;> exact nofun
  · have idle : LineState.idle ≠ .parked := by decide
    cases x <;> first | exact idle | cases h

/-- A member dropped from a broadcast of two, in its close, by what is pending and the other's line state. -/
def shedding (pend : Option Pending) (phase : Phase) (line other : LineState) : State :=
  (((pair phase line other).modPort .u0 fun c =>
    { c with bset := some [⟨.s0, .dropped⟩, ⟨.s1, .owned⟩], release := pend, sclHeld := false }).modSgc .s0 fun c =>
    { c with closing := true, formingRs := true, nackOut := true })

/-- A close that is not the port's last, by what is pending; with nothing pending, between bytes and while the other
member's result is awaited. -/
theorem test_hyps_closeCutShort_member (pend : Option Pending) (phase : Phase) (line other : LineState) :
    let s := shedding pend phase line other
    (s.seg .s0).owner = some ⟨.u0, .broadcast⟩ ∧ (s.sgc .s0).closing = true ∧ s.unwanted .s0 ∧ (s.sgc .s0).line = line ∧
      (s.sgc .s0).formingRs = true ∧ (s.sgc .s0).nackOut = true ∧ (s.port .u0).release = pend ∧
      (s.port .u0).phase = phase ∧ (s.port .u0).sclHeld = false ∧ (∃ x, x ≠ Seg.s0 ∧ s.owns .u0 x = true) ∧
      (other ≠ .parked → ∃ x, x ≠ Seg.s0 ∧ s.markOf .u0 x = some .owned ∧ (s.sgc x).line ≠ .parked) ∧ s.parkedOwned := by
  refine ⟨rfl, rfl, ⟨rfl, fun q => ?_⟩, rfl, rfl, rfl, rfl, rfl, rfl, ⟨.s1, by decide, rfl⟩,
    fun h => ⟨.s1, by decide, rfl, h⟩, fun x h => ?_⟩
  · cases q <;> exact nofun
  · have idle : LineState.idle ≠ .parked := by decide
    cases x <;> first | exact idle | cases h

/-- The three clauses in turn: a byte, and the RS of a single transaction; the STOP, and the RS, of a close; a member that
waits for its lines. -/
theorem test_hyps_StuckLinesAbortTheTransaction :
    let s := underway .opening .address 0
    let t := cutting (some (.ending .stop)) .stopping false
    let u := pair .opening .busWait .write
    (s.underWay .u0 route ∧ s.unwanted route.seg ∧ s.awaitsByte .u0 .s0 ∧ (s.port .u0).phase = .opening ∧
      (s.sgc .s0).line = .address ∧ (s.sgc .s0).formingRs = true) ∧
    ((t.seg .s0).owner = some ⟨.u0, .single⟩ ∧ (t.sgc .s0).closing = true ∧ t.unwanted .s0 ∧
      (t.sgc .s0).line = .stopping ∧ (t.port .u0).release = some (.ending .stop) ∧ t.ownedBy .u0 = [.s0]) ∧
    u.memberAtWork .u0 .s0 [⟨.s0, .owned⟩, ⟨.s1, .owned⟩] ∧ u.unwanted .s0 ∧ u.awaitsLines .s0 := by
  refine ⟨⟨(test_hyps_underWay _ _ _).1, (test_hyps_underWay _ _ _).2.1, .inl ⟨rfl, rfl⟩, rfl, rfl, rfl⟩,
    ⟨rfl, rfl, (test_hyps_closeCutShort _ _ _).2.2.1, rfl, rfl, rfl⟩,
    ⟨rfl, rfl, rfl, rfl, rfl, .s1, by decide, rfl, by decide⟩, ⟨rfl, fun q => ?_⟩, rfl, rfl⟩
  cases q <;> exact nofun

/-- U1 waits for S0 alone, U2 waits for it as a broadcast that owns S1, and U3's set holds it PENDING. -/
def wanted (s : State) : State :=
  ((((((s.modPort .u1 fun c => { c with phase := .claim, route := some route, hold := ⟨20, true⟩ }).modPort .u2 fun c =>
    { c with phase := .claim, bset := some [⟨.s0, .pending⟩, ⟨.s1, .owned⟩], hold := ⟨20, true⟩ }).modPort .u3 fun c =>
    { c with phase := .claim, bset := some [⟨.s0, .pending⟩] }).modSeg .s1 fun r =>
    { r with owner := some ⟨.u2, .broadcast⟩ }).modSeg .s0 fun r =>
    { r with waitList := [⟨.u1, .device 0x30⟩, ⟨.u2, .generalCall⟩] }).modSgc .s0 fun c =>
    { c with broadcastFlag := true }).modSgc .s1 fun c => { c with broadcastFlag := true }

/-- U0 owns S0, for which others wait; U2 waits with S1 acquired. -/
def contested : State := wanted (owning .fwdWrite .parked)

/-- The same with the withdrawal of U2 on its way. -/
def crossed : State := contested.modPort .u2 fun c => { c with withdrawal := some .s0 }

/-- Of those who wait in wanted, each meets the case of turnedAway that is its own. -/
theorem wanted_turnedAway (s : State) :
    (((wanted s).seg .s0).waitList.filter fun c => c.port == .u1) = [⟨.u1, .device 0x30⟩] ∧
    (((wanted s).seg .s0).waitList.filter fun c => c.port == .u2) = [⟨.u2, .generalCall⟩] ∧
    (((wanted s).seg .s0).waitList.filter fun c => c.port == .u3) = [] ∧
    ((wanted s).port .u2).bset = some [⟨.s0, .pending⟩, ⟨.s1, .owned⟩] ∧
    ((wanted s).port .u3).bset = some [⟨.s0, .pending⟩] ∧
    markIn [⟨.s0, .pending⟩, ⟨.s1, .owned⟩] .s0 = some .pending ∧ markIn [⟨.s0, .pending⟩] .s0 = some .pending ∧
    (∀ x, x ≠ Seg.s0 → markIn [⟨.s0, .pending⟩, ⟨.s1, .owned⟩] x ≠ some .pending) ∧
    (∃ x, markIn [⟨.s0, .pending⟩, ⟨.s1, .owned⟩] x = some .owned) ∧
    (∀ x, markIn [⟨.s0, .pending⟩] x ≠ some .owned) := by
  refine ⟨rfl, rfl, rfl, rfl, rfl, by decide, by decide, ?_, ⟨.s1, by decide⟩, ?_⟩
  all_goals (intro q; cases q <;> decide)

theorem test_hyps_StuckDetectionFlushesTheWaitList : ∃ s t u v : State,
    (s.seg .s0).owner = some ⟨.u0, .single⟩ ∧ (s.sgc .s0).line = .write ∧ (t.seg .s0).owner = some ⟨.u0, .single⟩ ∧
    (t.sgc .s0).line = .stopping ∧ (u.sgc .s0).line = .busWait ∧ (u.sgc .s0).busBusy = false ∧
    (v.sgc .s0).line = .address ∧ (v.sgc .s0).formingRs = true ∧
    (u.seg .s0).owner = some ⟨.u0, .single⟩ ∧ (v.seg .s0).owner = some ⟨.u0, .single⟩ ∧
    (s.port .u1).bset = none := by
  refine ⟨wanted (owning .awaitEnd .write),
    wanted (owning .awaitEnd .stopping),
    wanted (owning .opening .busWait),
    wanted ((owning .opening .address).modSgc .s0 fun c => { c with formingRs := true }), ?_⟩
  repeat' apply And.intro
  all_goals decide

theorem test_hyps_RecoverySucceeds :
    ((lineIs .recovery).sgc .s0).line = .recovery ∧ (RecoveryLines.mk true true [] true true).dataHigh = true ∧
    (∃ n, n ≤ 8 ∧
    (RecoveryLines.mk true false (List.replicate 8 ⟨true, false⟩ ++ [⟨true, true⟩]) true true).pulses = List.replicate n ⟨true, false⟩ ++ [⟨true, true⟩]) ∧
    (((lineIs .recovery).modSgc .s0 fun c => { c with origin := some (.automatic .u0) }).sgc .s0).origin = some (.automatic .u0) ∧
    (((lineIs .recovery).modSgc .s0 fun c => { c with origin := some (.command .u0) }).sgc .s0).origin = some (.command .u0) := by
  repeat' apply And.intro
  all_goals decide

theorem test_hyps_RecoveryFails : ∃ s t : State,
    (s.sgc .s0).line = .recovery ∧ s.unwanted .s0 ∧ (s.sgc .s0).origin = some (.automatic .u0) ∧
    (t.sgc .s0).line = .recovery ∧ t.unwanted .s0 ∧ (t.sgc .s0).origin = some (.command .u0) ∧
    (RecoveryLines.mk false false [] false false).clockFreed = false ∧
    (RecoveryLines.mk true false (List.replicate 9 ⟨true, false⟩) true true).pulses = List.replicate 9 ⟨true, false⟩ ∧
    (∃ l ∈ (leased quiet).leases, l.seg = .s0 ∧ l.holder = .u1) ∧
    (∀ l ∈ (leased quiet).leases, l.seg = .s0 → l.holder ≠ .u2) := by
  refine ⟨(lineIs .recovery).modSgc .s0 fun c => { c with origin := some (.automatic .u0) },
    (lineIs .recovery).modSgc .s0 fun c => { c with origin := some (.command .u0) }, ?_⟩
  repeat' apply And.intro
  all_goals first
    | decide
    | (constructor <;> first | decide | (intro q; cases q <;> decide))

theorem test_hyps_ForeignTrafficIsFollowed : ∃ s t u : State,
    ((lineIs .foreign).sgc .s0).line = .foreign ∧ ((lineIs .idle).sgc .s0).line = .idle ∧
    (s.sgc .s0).line = .recovery ∧ (s.sgc .s0).freeCheck = true ∧ (t.sgc .s0).line = .faulted ∧
    (t.sgc .s0).freeCheck = true ∧ (u.sgc .s0).line = .busWait ∧ (u.sgc .s0).busBusy = true ∧ (u.sgc .s0).retry ≠ 0 ∧
    ((u.modSgc .s0 fun c => { c with retry := 0 }).sgc .s0).retry = 0 ∧
    ((u.modSgc .s0 fun c => { c with retry := 0 }).sgc .s0).line = .busWait ∧
    ((u.modSgc .s0 fun c => { c with retry := 0 }).sgc .s0).busBusy = true := by
  refine ⟨(lineIs .recovery).modSgc .s0 fun c => { c with freeCheck := true, busBusy := true, retry := 1 },
    (lineIs .faulted).modSgc .s0 fun c => { c with freeCheck := true, busBusy := true, retry := 1 },
    (lineIs .busWait).modSgc .s0 fun c => { c with freeCheck := true, busBusy := true, retry := 1 }, ?_⟩
  repeat' apply And.intro
  all_goals decide

theorem test_hyps_DownstreamErrorAborts :
    let s := underway .fwdRead .read 0
    let t := cutting (some (.ending .hold)) .stopping true
    (s.underWay .u0 route ∧ s.awaitsByte .u0 .s0 ∧ (s.seg .s0).waitList = []) ∧
    (t.seg .s0).owner = some ⟨.u0, .single⟩ ∧ (t.sgc .s0).closing = true ∧ (t.seg .s0).waitList = [] ∧
      (t.sgc .s0).line = .stopping ∧ (t.port .u0).release = some (.ending .hold) ∧ t.ownedBy .u0 = [.s0] ∧
      (t.port .u0).quarantineHeld = true :=
  ⟨⟨(test_hyps_underWay _ _ _).1, .inr (.inr ⟨rfl, rfl⟩), rfl⟩, rfl, rfl, rfl, rfl, rfl, rfl, rfl⟩

/-- The last result of a broadcast's byte is an abort. -/
theorem test_hyps_DownstreamErrorAborts_last :
    let s := pair .fwdWrite .write .parked
    (s.seg .s0).owner = some ⟨.u0, .broadcast⟩ ∧ (s.port .u0).bset = some [⟨.s0, .owned⟩, ⟨.s1, .owned⟩] ∧
      markIn [⟨.s0, .owned⟩, ⟨.s1, .owned⟩] .s0 = some .owned ∧ (s.port .u0).release = none ∧
      (s.sgc .s0).closing = false ∧ (s.sgc .s0).line = .write ∧ (s.port .u0).phase = .fwdWrite ∧
      (s.port .u0).sclHeld = true ∧ (s.seg .s0).waitList = [] ∧
      (∃ x, x ≠ Seg.s0 ∧ markIn [⟨.s0, .owned⟩, ⟨.s1, .owned⟩] x = some .owned) ∧
      ∀ x, x ≠ Seg.s0 → markIn [⟨.s0, .owned⟩, ⟨.s1, .owned⟩] x = some .owned → (s.sgc x).line = .parked := by
  refine ⟨rfl, rfl, rfl, rfl, rfl, rfl, rfl, rfl, rfl, ⟨.s1, by decide, rfl⟩, fun x => ?_⟩
  cases x <;> decide

/-- The first clause below the limit; the second at it, at the part's own NACK and while an RS is formed; the third at the
NACK that ends a read byte in a close. -/
theorem test_hyps_ArbitrationLossRetriesThreeTimes :
    let s := underway .opening .address 2
    let t := underway .opening .address 3
    let u := underway .awaitEnd .parked 0
    let v := cutting (some (.ending (.stopAfterAbort .cause))) .stopping false
    (s.single .u0 route.seg ∧ (s.port .u0).route = some route ∧ (s.sgc .s0).closing = false ∧
      (s.sgc .s0).line = .address ∧ (s.sgc .s0).retry < 3) ∧
    (t.underWay .u0 route ∧ (t.seg .s0).waitList = [] ∧ (t.sgc .s0).line = .address ∧ (t.sgc .s0).retry = 3 ∧
      (t.port .u0).phase = .opening ∧ (t.sgc .s0).formingRs = true) ∧
    (u.underWay .u0 route ∧ (u.seg .s0).waitList = [] ∧ (u.sgc .s0).line = .parked ∧ (u.sgc .s0).nackOut = true ∧
      (u.port .u0).phase = .awaitEnd) ∧
    (v.seg .s0).owner = some ⟨.u0, .single⟩ ∧ (v.sgc .s0).closing = true ∧ (v.seg .s0).waitList = [] ∧
      (v.sgc .s0).line = .stopping ∧ (v.sgc .s0).nackOut = true ∧
      (v.port .u0).release = some (.ending (.stopAfterAbort .cause)) ∧ v.ownedBy .u0 = [.s0] :=
  ⟨⟨(test_hyps_underWay _ _ _).1.alone, rfl, rfl, rfl, Nat.lt_succ_self 2⟩,
    ⟨(test_hyps_underWay _ _ _).1, rfl, rfl, rfl, rfl, rfl⟩, ⟨(test_hyps_underWay _ _ _).1, rfl, rfl, rfl, rfl⟩,
    rfl, rfl, rfl, rfl, rfl, rfl, rfl⟩

/-- R83, R85: a loss at the part's own NACK, the master gone on to wait for the end, leaves the port in DRAIN and the
segment to the winner. -/
theorem test_lossAtTheNack :
    ∃ t, exec (.arbitrationLoss .s0 .bit []) (underway .awaitEnd .parked 0) = .next t ∧ (t.port .u0).phase = .drain ∧
      (t.sgc .s0).line = .foreign ∧ (t.seg .s0).owner = none ∧ (t.log .u0).records.map (·.body.detail) = [.dataPhase] :=
  ⟨_, rfl, by decide⟩

/-- R12, Table 7-4: a STOP seen while the part sends its own ends the close as its release, with the record. -/
theorem test_busErrorEndsAClose :
    ∃ t, exec (.stopSeen .s0 []) (cutting (some (.ending .stop)) .stopping false) = .next t ∧
      (t.port .u0).phase = .idle ∧ (t.sgc .s0).line = .idle ∧ (t.seg .s0).owner = none ∧
      (t.log .u0).records.map (·.body.kind) = [.abortDownstreamError] :=
  ⟨_, rfl, by decide⟩

/-- S0's STOP is being sent with this pending. -/
def ending (pend : Option Pending) : State :=
  (owning .awaitEnd .stopping).modPort .u0 fun c => { c with release := pend, quarantineHeld := true, errCount := 4 }

theorem test_hyps_ReleaseEndsTheTransaction : ∃ s : State,
    (∀ pend, ((ending pend).seg .s0).owner = some ⟨.u0, .single⟩ ∧ ((ending pend).sgc .s0).line = .stopping ∧
      ((ending pend).seg .s0).waitList = [] ∧ (ending pend).ownedBy .u0 = [.s0] ∧
      ((ending pend).port .u0).release = pend ∧ ((ending pend).port .u0).quarantineHeld = true) ∧
    ((closing .stop).seg .s0).owner = some ⟨.u0, .single⟩ ∧ (closing .stop).ownedBy .u0 = [.s0] ∧
    ((closing .stop).port .u0).quarantineHeld = false ∧ ((closing .stop).sgc .s0).line = .stopping ∧
    ((closing .stop).port .u0).release = some (.ending .stop) ∧
    (s.seg .s2).owner = some ⟨.u0, .broadcast⟩ ∧ (s.sgc .s2).line = .stopping ∧ (s.seg .s2).waitList = [] ∧
    (s.port .u0).release = some (.ending .stop) ∧ Seg.s0 ≠ .s2 ∧ s.owns .u0 .s0 = true := by
  refine ⟨(spread .awaitEnd).modPort .u0 fun c => { c with release := some (.ending .stop) },
    fun pend => ⟨rfl, rfl, rfl, rfl, rfl, rfl⟩, ?_⟩
  repeat' apply And.intro
  all_goals decide

theorem test_hyps_ReleaseGrantsTheHeadClaim : ∃ s t u : State,
    s.single .u0 .s0 ∧ (s.sgc .s0).line = .stopping ∧ (s.port .u0).quarantineHeld = false ∧
    (s.port .u0).release = some (.ending .stop) ∧
    (s.seg .s0).waitList = ⟨.u1, .device 0x30⟩ :: [⟨.u2, .generalCall⟩] ∧ (s.port .u1).route = some route ∧
    route.seg = .s0 ∧ Seg.s0 ∉ [Seg.s1] ∧
    t.single .u0 .s0 ∧ (t.seg .s0).waitList = [⟨.u2, .generalCall⟩] ∧
    (t.port .u2).bset = some [⟨.s0, .pending⟩, ⟨.s1, .owned⟩] ∧
    markIn [⟨.s0, .pending⟩, ⟨.s1, .owned⟩] .s0 = some .pending ∧
    (∀ x, x ≠ Seg.s0 → markIn [⟨.s0, .pending⟩, ⟨.s1, .owned⟩] x ≠ some .pending) ∧
    (∀ x, markIn [⟨.s0, .pending⟩, ⟨.s1, .owned⟩] x = some .owned → (t.sgc x).line = .idle ∨ (t.sgc x).line = .foreign) ∧
    u.single .u0 .s0 ∧ (u.seg .s0).waitList = [⟨.u2, .generalCall⟩] ∧
    (u.port .u2).bset = some [⟨.s0, .pending⟩, ⟨.s3, .pending⟩] ∧
    markIn [⟨.s0, .pending⟩, ⟨.s3, .pending⟩] .s3 = some .pending ∧
    (∀ x, x ≠ Seg.s0 → (segCode x).toNat < (segCode .s3).toNat →
      markIn [⟨.s0, .pending⟩, ⟨.s3, .pending⟩] x ≠ some .pending) ∧
    (u.seg .s3).owner = some ⟨.u3, .single⟩ ∧ u.condition .s3 = .available ∧ (∀ l ∈ u.leases, l.seg = .s3 → l.holder = .u2) := by
  refine ⟨((closing .stop).modSeg .s0 fun r => { r with waitList := [⟨.u1, .device 0x30⟩, ⟨.u2, .generalCall⟩] }).modPort .u1 fun c => { c with phase := .claim, route := some route },
    (wanted (closing .stop)).modSeg .s0 fun r => { r with waitList := [⟨.u2, .generalCall⟩] },
    (((closing .stop).modSeg .s0 fun r => { r with waitList := [⟨.u2, .generalCall⟩] }).modPort .u2 fun c =>
      { c with phase := .claim, bset := some [⟨.s0, .pending⟩, ⟨.s3, .pending⟩] }).modSeg .s3 fun r =>
      { r with owner := some ⟨.u3, .single⟩ }, ?_⟩
  repeat' apply And.intro
  all_goals first
    | decide
    | (constructor <;> decide)
    | (intro q; cases q <;> decide)

/-- The head claimant's withdrawal is on its way. -/
theorem test_hyps_ReleaseGrantsTheHeadClaim_withdrawn : ∃ s t : State,
    s.single .u0 .s0 ∧ (s.sgc .s0).line = .stopping ∧ (s.port .u0).quarantineHeld = false ∧
    (s.port .u0).release = some (.ending .stop) ∧
    (s.seg .s0).waitList = ⟨.u1, .device 0x30⟩ :: [⟨.u2, .generalCall⟩] ∧ (s.port .u1).route = some route ∧
    (s.port .u1).withdrawal ≠ none ∧ t.single .u0 .s0 ∧ (t.sgc .s0).line = .stopping ∧
    (t.port .u0).quarantineHeld = false ∧ (t.port .u0).release = some (.ending .stop) ∧
    (t.seg .s0).waitList = [⟨.u2, .generalCall⟩] ∧ (t.port .u2).bset = some [⟨.s0, .pending⟩, ⟨.s1, .owned⟩] ∧
    (t.port .u2).withdrawal ≠ none := by
  refine ⟨(wanted (closing .stop)).modPort .u1 fun c => { c with withdrawal := some .s0 },
    ((wanted (closing .stop)).modSeg .s0 fun r => { r with waitList := [⟨.u2, .generalCall⟩] }).modPort .u2 fun c =>
      { c with withdrawal := some .s0 }, ?_⟩
  repeat' apply And.intro
  all_goals first
    | decide
    | (constructor <;> decide)

/-- R51, R125: a withdrawal on its way meets the grant of its claim. The port is then in OPEN with nothing begun, and the
arrival of the withdrawal refuses the address with one WAIT_EXPIRED, the segment idle and unowned. -/
theorem test_withdrawalMeetsTheGrant :
    let s := wanted (closing .stop)
    ∃ t u v, exec (.holdExpiry .u1 ⟨[], true⟩) s = .next t ∧ (t.port .u1).phase = .claim ∧
      exec (.stopDone .s0 []) t = .next u ∧ (u.seg .s0).owner = some ⟨.u1, .single⟩ ∧ (u.port .u1).phase = .opening ∧
      (u.sgc .s0).line = .idle ∧ exec (.holdExpiry .u1 ⟨[], false⟩) u = .next v ∧ (v.port .u1).phase = .idle ∧
      ((v.log .u1).records.map (·.body)) = [⟨.waitExpired, some 0x50, some .s0, none, none, .zero⟩] ∧
      (v.seg .s0).owner = some ⟨.u2, .broadcast⟩ :=
  ⟨_, _, _, rfl, by decide, rfl, by decide, by decide, by decide, rfl, by decide, by decide, by decide⟩

/-- R118, R125: the same for a broadcast: the segment granted is released with the rest, and the record names it. -/
theorem test_withdrawalOfABroadcastMeetsTheGrant :
    let s := (wanted (closing .stop)).modSeg .s0 fun r => { r with waitList := [⟨.u2, .generalCall⟩] }
    ∃ t u v, exec (.holdExpiry .u2 ⟨[], true⟩) s = .next t ∧ exec (.stopDone .s0 []) t = .next u ∧
      u.ownedBy .u2 = [.s0, .s1] ∧ (u.port .u2).phase = .claim ∧ exec (.holdExpiry .u2 ⟨[], false⟩) u = .next v ∧
      (v.port .u2).phase = .idle ∧ v.ownedBy .u2 = [] ∧ (v.sgc .s0).line = .idle ∧
      ((v.log .u2).records.map (·.body)) = [⟨.waitExpired, some 0, some .s0, none, none, .zero⟩] :=
  ⟨_, _, _, rfl, rfl, by decide, by decide, rfl, by decide, by decide, by decide, by decide⟩

theorem test_hyps_HoldExpiryRefusesTheAddress : ∃ s t u : State,
    (s.port .u0).phase = .claim ∧ (s.port .u0).hold.running = true ∧ (s.port .u0).bset = none ∧
    (s.port .u0).route = some route ∧
    (s.seg route.seg).waitList = [⟨.u1, .device 0x30⟩] ++ ⟨.u0, .device 0x30⟩ :: [⟨.u2, .generalCall⟩] ∧
    (∀ c ∈ [Claim.mk .u1 (.device 0x30)] ++ [Claim.mk .u2 .generalCall], c.port ≠ .u0) ∧ t.single .u0 route.seg ∧
    (t.port .u0).route = some route ∧ (t.port .u0).phase = .opening ∧ (t.port .u0).hold.running = true ∧
    (t.sgc .s0).line = .busWait ∧ (t.seg .s0).waitList = [] ∧ (t.port .u0).quarantineHeld = false ∧
    u.single .u0 route.seg ∧ (u.port .u0).route = some route ∧ (u.port .u0).phase = .opening ∧
    (u.port .u0).hold.running = true ∧ (u.sgc .s0).line = .address ∧ (u.seg .s0).waitList = [] ∧
    (u.port .u0).quarantineHeld = false := by
  refine ⟨(quiet.modPort .u0 fun c => { c with phase := .claim, route := some route, hold := ⟨20, true⟩ }).modSeg .s0 fun r => { r with waitList := [⟨.u1, .device 0x30⟩, ⟨.u0, .device 0x30⟩, ⟨.u2, .generalCall⟩] },
    (owning .opening .busWait).modPort .u0 fun c => { c with hold := ⟨20, true⟩ },
    (owning .opening .address).modPort .u0 fun c => { c with hold := ⟨20, true⟩ }, ?_⟩
  repeat' apply And.intro
  all_goals first
    | decide
    | (constructor <;> decide)

/-- A withdrawal sent and left on its way; one that arrives while the claim waits, and while the port is in OPEN with no
START; and for a broadcast, while its claim waits and once it has been granted. -/
theorem test_hyps_HoldExpiryRefusesTheAddress_withdrawal : ∃ s t u v : State,
    (contested.port .u1).phase = .claim ∧ (contested.port .u1).hold.running = true ∧
    (contested.port .u1).withdrawal = none ∧ (∃ c ∈ (contested.seg .s0).waitList, c.port = .u1) ∧
    (∀ x, x ≠ Seg.s0 → ∀ c ∈ (contested.seg x).waitList, c.port ≠ .u1) ∧
    (s.port .u1).phase = .claim ∧ (s.port .u1).hold.running = true ∧ (s.port .u1).bset = none ∧
    (s.port .u1).route = some route ∧ (s.seg route.seg).waitList = [] ++ ⟨.u1, .device 0x30⟩ :: [⟨.u2, .generalCall⟩] ∧
    (∀ c ∈ [] ++ [Claim.mk .u2 .generalCall], c.port ≠ .u1) ∧ (s.port .u1).withdrawal ≠ none ∧
    t.single .u0 route.seg ∧ (t.port .u0).route = some route ∧ (t.port .u0).phase = .opening ∧
    (t.port .u0).hold.running = true ∧ (t.seg .s0).waitList = [] ∧ (t.port .u0).quarantineHeld = false ∧
    (t.sgc .s0).line = .idle ∧ (u.port .u2).withdrawal = some .s0 ∧
    (u.seg .s0).waitList = [⟨.u1, .device 0x30⟩] ++ ⟨.u2, .generalCall⟩ :: [] ∧ u.owns .u2 .s0 = false ∧
    (u.port .u2).phase = .claim ∧ (v.port .u2).withdrawal = some .s0 ∧ v.ownedBy .u2 = [.s0, .s1] ∧
    (v.port .u2).phase = .claim ∧ (v.port .u2).hold.running = true ∧ (v.port .u2).bset ≠ none ∧
    (v.port .u2).quarantineHeld = false ∧ (∀ x, x ≠ Seg.s0 → ∀ c ∈ (v.seg x).waitList, c.port ≠ .u2) ∧
    (∀ x, v.owns .u2 x = true → (v.seg x).waitList = [] ∧ ((v.sgc x).line = .idle ∨ (v.sgc x).line = .foreign)) := by
  refine ⟨contested.modPort .u1 fun c => { c with withdrawal := some .s0 },
    (owning .opening .idle).modPort .u0 fun c => { c with hold := ⟨20, true⟩, withdrawal := some .s0 },
    contested.modPort .u2 fun c => { c with withdrawal := some .s0 },
    ((wanted quiet).modSeg .s0 fun _ => ⟨some ⟨.u2, .broadcast⟩, []⟩).modPort .u2 fun c =>
      { c with withdrawal := some .s0, bset := some [⟨.s0, .owned⟩, ⟨.s1, .owned⟩] }, ?_⟩
  repeat' apply And.intro
  all_goals first
    | decide
    | (constructor <;> decide)
    | exact ⟨_, List.mem_cons_self, rfl⟩
    | (intro q; cases q <;> decide)

/-- The clauses of a broadcast: U2 of wanted waits behind U1 and owns S1; a broadcast in OPEN owns segments in every line
state that the close finds, or in BUS_WAIT alone. -/
theorem test_hyps_HoldExpiryRefusesTheAddress_broadcast : ∃ s t u : State,
    (s.port .u2).bset ≠ none ∧ (s.port .u2).hold.running = true ∧ (s.port .u2).quarantineHeld = false ∧
    (s.port .u2).phase = .claim ∧ (s.seg .s0).waitList = [⟨.u1, .device 0x30⟩] ++ ⟨.u2, .generalCall⟩ :: [] ∧
    (∀ c ∈ [Claim.mk .u1 (.device 0x30)] ++ [], c.port ≠ .u2) ∧
    (∀ x, x ≠ Seg.s0 → ∀ c ∈ (s.seg x).waitList, c.port ≠ .u2) ∧ s.owns .u2 .s0 = false ∧
    (∀ x, s.owns .u2 x = true → (s.seg x).waitList = [] ∧ ((s.sgc x).line = .idle ∨ (s.sgc x).line = .foreign)) ∧
    (t.port .u0).bset ≠ none ∧ (t.port .u0).hold.running = true ∧ (t.port .u0).quarantineHeld = false ∧
    (t.port .u0).phase = .opening ∧ t.ownedBy .u0 = [.s0, .s2] ∧
    (∀ x, t.owns .u0 x = true → (t.sgc x).line = .busWait ∧ (t.seg x).waitList = [] ∨ (t.sgc x).line = .address ∨
      (t.sgc x).line = .parked ∨ (t.sgc x).line = .stopping) ∧
    (t.owns .u0 .s0 = true ∧ (t.sgc .s0).line ≠ .busWait) ∧
    (u.port .u0).phase = .opening ∧ u.ownedBy .u0 = [.s0] ∧ (u.port .u0).hold.running = true ∧
    (∀ x, u.owns .u0 x = true → (u.sgc x).line = .busWait) ∧ (u.port .u0).bset ≠ none ∧
    (u.port .u0).quarantineHeld = false := by
  refine ⟨wanted (owning .fwdWrite .parked), spread .opening,
    (broadcasting [⟨.s0, .owned⟩] .opening .busWait).modPort .u0 fun c => { c with hold := ⟨20, true⟩ }, ?_⟩
  repeat' apply And.intro
  all_goals first
    | decide
    | (intro q; cases q <;> decide)

theorem test_hyps_OwnerIdleExpiryAborts : ∃ s t u : State,
    s.single .u0 route.seg ∧ (s.port .u0).route = some route ∧ (s.port .u0).idle.running = true ∧
    (s.port .u0).sclHeld = false ∧ (s.port .u0).phase = .fwdWrite ∧ (s.sgc .s0).line = .parked ∧
    t.single .u0 route.seg ∧ (t.port .u0).route = some route ∧ (t.port .u0).idle.running = true ∧
    (t.port .u0).sclHeld = false ∧ (t.port .u0).phase = .awaitEnd ∧ (t.sgc .s0).line = .parked ∧
    u.single .u0 route.seg ∧ (u.port .u0).route = some route ∧ (u.port .u0).idle.running = true ∧
    (u.port .u0).sclHeld = false ∧ (u.port .u0).phase = .fwdRead ∧ (u.sgc .s0).line = .ackHold ∧
    ((spread .fwdWrite).port .u0).idle.running = true ∧ ((spread .fwdWrite).port .u0).sclHeld = false ∧
    ((spread .fwdWrite).port .u0).bset ≠ none ∧ (spread .fwdWrite).ready .u0 := by
  refine ⟨owning .fwdWrite .parked |>.modPort .u0 fun c => { c with idle := ⟨30, true⟩ },
    owning .awaitEnd .parked |>.modPort .u0 fun c => { c with idle := ⟨30, true⟩ },
    owning .fwdRead .ackHold |>.modPort .u0 fun c => { c with idle := ⟨30, true⟩ }, ?_⟩
  repeat' apply And.intro
  all_goals first
    | (constructor <;> decide)
    | decide
    | (intro q; cases q <;> decide)

theorem test_hyps_LeaseExpiryRemovesTheLease :
    leaseB ∈ (leased quiet).leases ∧ leaseB.id = 255 ∧ leaseB.due = true ∧ leaseA ∈ (leased quiet).leases ∧
    leaseA.id = 1 ∧ leaseA.due = false ∧ LeaseTableOk (leased quiet) ∧ (∀ l ∈ (leased quiet).leases, l.id ≠ 2) := by
  repeat' apply And.intro
  all_goals first
    | decide
    | exact leasedOk _ (by intro q; cases q <;> decide)

theorem test_hyps_UnreadableMessageIsAnswered :
    ((asking 0x01 []).port .u0).heldAddr = none ∧ ([0] : List Byte).length < 2 ∧ byteSum [0x00, 0x01] ≠ 0 ∧
    byteSum (List.replicate 16 0x10) = 0 ∧ (List.replicate 16 (0x10 : Byte)).length ≤ 16 ∧
    (0x10 : Byte) ∉ ([0x01, 0x02, 0x0F, 0x20, 0x21, 0x22, 0x23, 0x24, 0x30, 0x31, 0x40, 0x41, 0x42, 0x50, 0x60] : List Byte) := by
  repeat' apply And.intro
  all_goals decide

theorem test_hyps_ChecksTurnCommandsAway : ∃ s : State,
    (asking 0x01 [0]).asked .u0 0x01 [0] ∧ ([0] : List Byte).length ≠ 0 ∧
    (asking 0x20 (List.replicate 14 0)).asked .u0 0x20 (List.replicate 14 0) ∧
    (List.replicate 14 (0 : Byte)).length ≤ 14 ∧ (List.replicate 14 (0 : Byte)).length ≠ 4 ∧
    (asking 0x60 []).asked .u0 0x60 [] ∧ (asks quiet .u1 0x0F []).asked .u1 0x0F [] ∧
    privileged quiet.straps .u1 = false ∧ s.asked .u0 0x21 [1, 0, 1] ∧ (s.port .u0).quarantined = true := by
  refine ⟨asks (quiet.modPort .u0 fun c => { c with quarantined := true }) .u0 0x21 [1, 0, 1], ?_⟩
  repeat' apply And.intro
  all_goals decide

theorem test_hyps_HeldAddressIsResolvedAfterTheReply : ∃ s t u v : State,
    (s.port .u0).handed = some ⟨messageBytes 0x24 [], false⟩ ∧ (s.port .u0).release = none ∧
    (s.port .u0).heldAddr = some ⟨mgmtAddress s.straps, .read⟩ ∧
    Message.parse ⟨messageBytes 0x24 [], false⟩ = .command .leaseList [] ∧
    (t.port .u0).handed = some ⟨messageBytes 0x77 [], false⟩ ∧ (t.port .u0).heldAddr = some ⟨0x50, .write⟩ ∧
    (t.port .u0).release = none ∧ Message.parse ⟨messageBytes 0x77 [], false⟩ = .refused .unknownCommand ∧
    (u.port .u0).phase = .idle ∧ (u.port .u0).handed ≠ none ∧ (u.port .u0).sclHeld = false ∧
    (v.port .u0).phase = .mgmtWrite ∧ (v.port .u0).message.bytes ≠ [] ∧ (v.port .u0).sclHeld = false := by
  refine ⟨(asking 0x24 []).modPort .u0 fun c => { c with heldAddr := some ⟨0x1C, .read⟩ },
    (asking 0x77 []).modPort .u0 fun c => { c with heldAddr := some ⟨0x50, .write⟩ }, asking 0x01 [],
    quiet.modPort .u0 fun c => { c with phase := .mgmtWrite, message := ⟨[0x24], false⟩ }, ?_⟩
  repeat' apply And.intro
  all_goals decide

/-- STATUS asked with every count at its largest. -/
def statusAtTheLimits : State :=
  (({ asking 0x01 [] with leases := eight }).modPort .u0 fun c => { c with errCount := 4 }).modLog .u0 fun l => { l with records := records 16 }

theorem test_hyps_StatusAndLeaseListReportTheState :
    statusAtTheLimits.asked .u0 0x01 [] ∧ (statusAtTheLimits.port .u0).errCount ≤ 4 ∧
    (statusAtTheLimits.log .u0).records.length ≤ 16 ∧ (statusAtTheLimits.leasesHeld .u0).length ≤ 4 ∧
    (asking 0x24 []).asked .u0 0x24 [] := by
  repeat' apply And.intro
  all_goals decide

theorem test_hyps_PortSetWritesTheSettings :
    (asking 0x02 [1, 250, 0x7F, 0xFF]).asked .u0 0x02 [1, 250, 0x7F, 0xFF] ∧ limitRange 1 ∧ limitRange 250 ∧
    (wordOf 0x7F 0xFF).getLsbD 15 = false ∧ (asking 0x02 [0, 251, 0x80, 0]).asked .u0 0x02 [0, 251, 0x80, 0] ∧
    (wordOf 0x80 0).getLsbD 15 = true ∧ ¬ (1 ≤ (0 : Byte).toNat) ∧ ¬ ((251 : Byte).toNat ≤ 250) := by
  repeat' apply And.intro
  all_goals decide

/-- U0 asks for a switch reset. -/
def resetAsked (s : State) : State := asks (s.modPort .u0 fun c => { c with phase := .idle, route := none }) .u0 0x0F []

/-- U3 writes on S0, for which U1 waits in CLAIM and U2 as a broadcast in CLAIM that owns S1; S4 is FAULTED and S5 in
recovery. -/
def resetInClaim : State :=
  (((resetAsked (wanted quiet)).modPort .u3 fun c => { c with phase := .fwdWrite, bset := none, route := some route }).modSeg
    .s0 fun r => { r with owner := some ⟨.u3, .single⟩ }).modSgc .s0 (fun c => { c with line := .parked })
  |>.modSgc .s4 (fun c => { c with line := .faulted }) |>.modSgc .s5 fun c =>
    { c with line := .recovery, origin := some (.command .u2) }

/-- U1 is in OPEN with S1 in BUS_WAIT, U2 in OPEN as a broadcast with S0 at its address and S2 in BUS_WAIT, and U3 in
AWAIT_END with S3 PARKED. -/
def resetInOpen : State :=
  { (resetAsked quiet) with
    ports := ⟨(resetAsked quiet).port .u0,
      { PortCtx.reset with phase := .opening, route := some { route with seg := .s1 }, sclHeld := true, hold := ⟨20, true⟩ },
      { PortCtx.reset with phase := .opening, bset := some [⟨.s0, .owned⟩, ⟨.s2, .owned⟩], sclHeld := true, hold := ⟨20, true⟩ },
      { PortCtx.reset with phase := .awaitEnd, route := some { route with seg := .s3 }, idle := ⟨30, true⟩ }⟩
    segs := ⟨⟨some ⟨.u2, .broadcast⟩, []⟩, ⟨some ⟨.u1, .single⟩, []⟩, ⟨some ⟨.u2, .broadcast⟩, []⟩, ⟨some ⟨.u3, .single⟩, []⟩,
      ⟨none, []⟩, ⟨none, []⟩⟩
    sgcs := quiet.sgcs.mapAll fun sg c =>
      { c with broadcastFlag := true
               line := if sg = .s0 then .address else if sg = .s1 ∨ sg = .s2 then .busWait else if sg = .s3 then .parked
                 else if sg = .s4 then .foreign else .idle
               busBusy := sg == .s1 || sg == .s4 } }

/-- U1 has a read byte to acknowledge, U2 has END pending with S2's STOP being sent, and U3 waits for a read byte. -/
def resetInRead : State :=
  { (resetAsked quiet) with
    ports := ⟨(resetAsked quiet).port .u0,
      { PortCtx.reset with phase := .fwdRead, route := some { route with seg := .s1 }, idle := ⟨30, true⟩ },
      { PortCtx.reset with phase := .awaitEnd, route := some { route with seg := .s2 }, release := some (.ending .stop) },
      { PortCtx.reset with phase := .fwdRead, route := some { route with seg := .s3 }, sclHeld := true }⟩
    segs := ⟨⟨none, []⟩, ⟨some ⟨.u1, .single⟩, []⟩, ⟨some ⟨.u2, .single⟩, []⟩, ⟨some ⟨.u3, .single⟩, []⟩, ⟨none, []⟩,
      ⟨none, []⟩⟩
    sgcs := quiet.sgcs.mapAll fun sg c =>
      { c with line := if sg = .s1 then .ackHold else if sg = .s2 then .stopping else if sg = .s3 then .read else .idle
               closing := sg == .s2 } }

/-- Every row of Tables 3-7 and 4-9 stands in one of these three states: CLAIM alone and as a broadcast, OPEN with nothing
to send and with something, FWD_WRITE, FWD_READ, AWAIT_END with and without a release pending; a segment in each line
state. -/
theorem test_hyps_SwitchResetStartsThePartAgain : ∀ s ∈ [resetInClaim, resetInOpen, resetInRead],
    s.asked .u0 0x0F [] ∧ privileged s.straps .u0 = true ∧ OwnershipOk s ∧
    ∀ z b r, (s.port z).release ≠ some (.address b r) := by
  intro s h
  simp only [List.mem_cons, List.not_mem_nil, or_false] at h
  rcases h with rfl | rfl | rfl
  all_goals
    refine ⟨⟨rfl, rfl⟩, rfl, ownershipOk_of _ ?_ ?_ ?_ ?_ ?_, ?_⟩
    · intro sg; cases sg <;> decide
    · intro p; cases p <;> decide
    · intro sg; cases sg <;> decide
    · intro p sg; cases p <;> cases sg <;> decide
    · intro p; cases p <;> decide
    · intro z b r; cases z <;> exact nofun

/-- A counter whose next two ids are in use. -/
def reserving : State := { leased (asking 0x20 ([2, 0x77] ++ wordBytes 60000)) with nextLeaseId := 255 }

theorem test_hyps_ReserveGrantsALease :
    reserving.asked .u0 0x20 ([segCode .s2, ((some 0x77 : Option Addr).map addrCode).getD 0] ++ wordBytes 60000) ∧
    (∀ l ∈ reserving.leases, l.overlaps .s2 (some 0x77) = false) ∧ reserving.leases.length < 8 ∧
    (reserving.leasesHeld .u0).length < 4 ∧ reserving.unwanted .s2 ∧ (reserving.port .u0).quarantined = false ∧
    (∀ j < 2, ∃ l ∈ reserving.leases, l.id = idAfter^[j] reserving.nextLeaseId) ∧
    (∀ l ∈ reserving.leases, l.id ≠ idAfter^[2] reserving.nextLeaseId) ∧ 1 ≤ (60000 : Word16).toNat ∧
    (60000 : Word16).toNat ≤ 60000 ∧
    deviceAddress 0x77 := by
  repeat' apply And.intro
  all_goals first
    | decide
    | (constructor <;> first | decide | (intro q; cases q <;> decide))

/-- U0 asks for a whole-segment lease on S0, for which others wait. -/
def leasing : State := wanted (asking 0x20 [0, 0, 0, 1])

theorem test_hyps_GrantedLeaseRefusesTheWaitingClaim : ∃ s : State,
    s.asked .u0 0x20 ([segCode .s0, 0] ++ wordBytes 1) ∧ (s.port .u0).quarantined = false ∧
    (∀ l ∈ s.leases, l.seg ≠ .s0 ∧ l.id ≠ s.nextLeaseId) ∧ s.leases.length < 8 ∧
    (s.leasesHeld .u0).length < 4 ∧ (s.seg .s0).waitList = [⟨.u1, .device 0x30⟩] ∧
    (s.port .u1).route = some route ∧ (s.port .u1).bset = none ∧
    (∀ x, s.markOf x .s0 ≠ some .pending) ∧ leasing.asked .u0 0x20 ([segCode .s0, 0] ++ wordBytes 1) ∧
    (leasing.port .u0).quarantined = false ∧ (∀ l ∈ leasing.leases, l.seg ≠ .s0 ∧ l.id ≠ leasing.nextLeaseId) ∧
    leasing.leases.length < 8 ∧ (leasing.leasesHeld .u0).length < 4 ∧ (leasing.port .u1).bset = none := by
  refine ⟨((asking 0x20 [0, 0, 0, 1]).modPort .u1 fun c => { c with phase := .claim, route := some route }).modSeg .s0
    fun r => { r with waitList := [⟨.u1, .device 0x30⟩] }, ?_⟩
  repeat' apply And.intro
  all_goals first
    | decide
    | (intro q; cases q <;> decide)

/-- A lease of one target: U1 waits for that target, or for another one while U2 waits as a broadcast. -/
theorem test_hyps_GrantedLeaseRefusesTheWaitingClaim_target : ∃ s : State,
    s.asked .u0 0x20 ([segCode .s0, ((some 0x30 : Option Addr).map addrCode).getD 0] ++ wordBytes 1) ∧
    deviceAddress 0x30 ∧ (s.port .u0).quarantined = false ∧ s.leases = [] ∧
    (s.seg .s0).waitList = [⟨.u1, .device 0x30⟩] ∧ (s.port .u1).route = some route ∧ (s.port .u1).bset = none ∧
    (∀ x, s.markOf x .s0 ≠ some .pending) ∧ (some (0x30 : Addr) == some 0x30) = true ∧
    (some (0x31 : Addr) == some 0x30) = false ∧
    (wanted (asking 0x20 [0, 0x31, 0, 1])).asked .u0 0x20
      ([segCode .s0, ((some 0x31 : Option Addr).map addrCode).getD 0] ++ wordBytes 1) ∧
    (((wanted (asking 0x20 [0, 0x31, 0, 1])).seg .s0).waitList.filter fun c => c.port == .u1) =
      [⟨.u1, .device 0x30⟩] := by
  refine ⟨((asking 0x20 [0, 0x30, 0, 1]).modPort .u1 fun c => { c with phase := .claim, route := some route }).modSeg .s0
    fun r => { r with waitList := [⟨.u1, .device 0x30⟩] }, ?_⟩
  repeat' apply And.intro
  all_goals first
    | decide
    | (intro q; cases q <;> decide)

theorem test_hyps_ReserveIsRefusedInOrder :
    (asking 0x20 ([6, 7] ++ wordBytes 0)).asked .u0 0x20 ([6, 7] ++ wordBytes 0) ∧
    (asking 0x20 ([0, 0x78] ++ wordBytes 60001)).asked .u0 0x20 ([0, 0x78] ++ wordBytes 60001) ∧ (7 : Byte) ≠ 0 ∧
    (7 : Byte).toNat < 0x08 ∧ 0x77 < (0x78 : Byte).toNat ∧ 60000 < (60001 : Word16).toNat ∧
    LeaseTableOk (leased (asking 0x20 [0, 0x30, 0, 1])) ∧ leaseA ∈ (leased quiet).leases ∧
    leaseA.overlaps .s0 (some 0x30) = true ∧ leaseA.holder ≠ .u0 ∧
    (∀ m ∈ (leased quiet).leases, m.overlaps .s0 (some 0x30) = true → m.holder ≠ .u0 → leaseA.id.toNat ≤ m.id.toNat) ∧
    leaseB.overlaps .s1 none = true ∧ (∀ m ∈ (leased quiet).leases, m.overlaps .s1 none = true → m.holder = .u0 ∧
    leaseB.id.toNat ≤ m.id.toNat) ∧
    (leased (asking 0x20 [0, 0x30, 0, 1])).asked .u0 0x20 ([0, 0x30] ++ wordBytes 1) ∧
    (leased (asking 0x20 [1, 0, 0, 1])).asked .u0 0x20 ([1, 0] ++ wordBytes 1) ∧ segCode .s1 = 1 := by
  repeat' apply And.intro
  all_goals first
    | decide
    | exact leasedOk _ (by intro q; cases q <;> decide)

/-- A full table stands, and no lease of it overlaps a request on S2. -/
theorem test_hyps_ReserveIsRefusedInOrder_full : LeaseTableOk { asking 0x20 [2, 0, 0, 1] with leases := eight } ∧
    (∀ l ∈ eight, l.overlaps .s2 none = false) ∧ eight.length = 8 ∧
    (State.leasesHeld { asking 0x20 [2, 0, 0, 1] with leases := eight } .u0).length = 4 :=
  ⟨leaseTableOk_of _ eight rfl (by decide) (by intro q; cases q <;> decide) (by decide) (by decide) (by decide)
    (by decide) (by decide), by decide, by decide, by decide⟩

theorem test_hyps_LeaseCommandsChangeTheTable : ∃ s : State,
    s.asked .u0 0x21 (255 :: wordBytes 1) ∧ LeaseTableOk s ∧ leaseB ∈ (leased quiet).leases ∧ leaseB.id = 255 ∧
    leaseB.holder = .u0 ∧ (∀ l ∈ (leased quiet).leases, l.id = 1 → l.holder ≠ .u0) ∧
    (asking 0x22 [0]).asked .u0 0x22 [0] ∧ (leased (asking 0x22 [1])).asked .u0 0x22 [1] ∧
    (leased (asking 0x23 [7])).asked .u0 0x23 [7] ∧ privileged quiet.straps .u0 = true ∧
    (∀ l ∈ (leased quiet).leases, l.id ≠ 7) ∧ (asking 0x21 (0 :: wordBytes 60000)).asked .u0 0x21 (0 :: wordBytes 60000) ∧
    (asking 0x21 (1 :: wordBytes 60001)).asked .u0 0x21 (1 :: wordBytes 60001) ∧ 60000 < (60001 : Word16).toNat ∧
    (asking 0x23 [0]).asked .u0 0x23 [0] := by
  refine ⟨leased (asking 0x21 (255 :: wordBytes 1)), ?_⟩
  repeat' apply And.intro
  all_goals first
    | decide
    | exact leasedOk _ (by intro q; cases q <;> decide)

theorem test_hyps_SegmentSetWritesThePendingSettings : ∃ s t : State,
    (asking 0x30 [5, 2, 250, 1]).asked .u0 0x30 [5, 2, 250, 1] ∧ rateOfByte 2 = some .khz400 ∧ stuckRange 250 ∧
    stuckRange 5 ∧ segCode .s5 = 5 ∧ (asking 0x30 [6, 3, 4, 2]).asked .u0 0x30 [6, 3, 4, 2] ∧ 5 < (6 : Byte).toNat ∧
    2 < (3 : Byte).toNat ∧ 1 < (2 : Byte).toNat ∧ ¬ (5 ≤ (4 : Byte).toNat) ∧ s.markOf .u0 .s0 = some .owned ∧
    s.markOf .u0 .s1 = some .pending ∧ (∀ q, t.markOf q .s0 ≠ some .pending ∧ t.markOf q .s0 ≠ some .owned) := by
  refine ⟨broadcasting [⟨.s0, .owned⟩, ⟨.s1, .pending⟩] .claim .idle,
    asking 0x30 [0, 0, 5, 0], ?_⟩
  repeat' apply And.intro
  all_goals first
    | decide
    | (intro q; cases q <;> decide)

/-- A request to clear the flag of S0 while U2 waits for it PENDING, and while U1 owns it as a broadcast that has dropped
it. -/
def clearing : State := wanted (asking 0x30 [0, 0, 5, 0])

def clearingDropped : State :=
  ((asking 0x30 [0, 0, 5, 0]).modPort .u1 fun c => { c with phase := .fwdWrite, bset := some [⟨.s0, .dropped⟩] }).modSeg .s0
    fun r => { r with owner := some ⟨.u1, .broadcast⟩ }

theorem test_hyps_SegmentSetWritesThePendingSettings_busy :
    clearing.asked .u0 0x30 [0, 0, 5, 0] ∧ clearing.markOf .u2 .s0 = some .pending ∧
    privileged clearing.straps .u0 = true ∧ clearingDropped.asked .u0 0x30 [0, 0, 5, 0] ∧
    (clearingDropped.seg .s0).owner = some ⟨.u1, .broadcast⟩ ∧ clearingDropped.markOf .u1 .s0 = some .dropped ∧
    segCode .s0 = 0 ∧ rateOfByte 0 = some .khz10 := by
  repeat' apply And.intro
  all_goals decide

/-- R4, R77: the flag of a segment that a broadcast still owns is not cleared, though the broadcast has dropped it. -/
theorem test_flagOfDroppedSegmentStays :
    exec (.segmentSet .u0 []) clearingDropped = .next ((clearingDropped.sampleLines []).answered .u0 .busy []) := rfl

theorem test_hyps_SegmentRecoverStartsARecovery :
    (asking 0x31 [6]).asked .u0 0x31 [6] ∧ (asking 0x31 [0]).asked .u0 0x31 [0] ∧
    (owning .fwdWrite .parked |>.seg .s0).owner ≠ none ∧ ((lineIs .recovery).sgc .s0).line = .recovery ∧
    (asking 0x31 [0]).unwanted .s0 ∧ ((asking 0x31 [0]).seg .s0).owner = none ∧
    ((asking 0x31 [0]).sgc .s0).line ≠ .recovery ∧ (wanted (asking 0x31 [0])).asked .u0 0x31 [0] ∧
    ((wanted (asking 0x31 [0])).seg .s0).owner = none ∧ ((wanted (asking 0x31 [0])).sgc .s0).line ≠ .recovery ∧
    ((wanted (asking 0x31 [0])).port .u1).bset = none := by
  repeat' apply And.intro
  all_goals first
    | decide
    | (constructor <;> first | decide | (intro q; cases q <;> decide))

theorem test_hyps_MapSetInsertsOrReplaces :
    (asking 0x40 ([addrCode entry.visible, segCode entry.seg, addrCode entry.downstream, portMaskCode entry.ports, accessCode entry.access])).asked .u0 0x40 ([addrCode entry.visible, segCode entry.seg, addrCode entry.downstream, portMaskCode entry.ports, accessCode entry.access]) ∧
    privileged quiet.straps .u0 = true ∧ addrCode (mgmtAddress quiet.straps) = 0x1C ∧
    (asking 0x40 [0x1C, 0, 8, 1, 1]).asked .u0 0x40 [0x1C, 0, 8, 1, 1] ∧
    (asking 0x40 [0x78, 6, 7, 16, 4]).asked .u0 0x40 [0x78, 6, 7, 16, 4] ∧ 0x77 < (0x78 : Byte).toNat ∧
    (asking 0x40 [8, 0, 8, 0, 0]).asked .u0 0x40 [8, 0, 8, 0, 0] ∧ (0 : Byte).toNat = 0 ∧ 15 < (16 : Byte).toNat ∧
    EntryOk quiet.straps entry ∧ quiet.map = [] ++ entry :: [] ∧ ({ quiet with map := [] } : State).map = [] ++ [] ∧
    thirtyTwo.length = 32 ∧ (∀ x ∈ thirtyTwo, x.visible.toNat < entry.visible.toNat) := by
  repeat' apply And.intro
  all_goals first
    | decide
    | exact entryOk_of _ _ (by decide)

theorem test_hyps_MapClearAndMapRead : ∃ s : State,
    (asking 0x41 [7]).asked .u0 0x41 [7] ∧ (7 : Byte).toNat < 0x08 ∧ 0x77 < (0x78 : Byte).toNat ∧
    (asking 0x41 [addrCode 0x51]).asked .u0 0x41 [addrCode 0x51] ∧ deviceAddress 0x51 ∧
    (∀ e ∈ quiet.map, e.visible ≠ 0x51) ∧ s.map = [] ++ entry :: [] ∧ MapOk s ∧
    (asking 0x42 [32]).asked .u0 0x42 [32] ∧ (asking 0x42 [31]).asked .u0 0x42 [31] ∧
    quiet.map.length ≤ (31 : Byte).toNat ∧ (asking 0x42 [0]).asked .u0 0x42 [0] ∧
    quiet.map[(0 : Byte).toNat]? = some entry := by
  refine ⟨asking 0x41 [addrCode 0x50], ?_⟩
  repeat' apply And.intro
  all_goals first
    | decide
    | exact mapOk_of _ _ rfl (by decide)

theorem test_hyps_PortRestoreEndsTheQuarantine : ∃ s : State,
    (asking 0x50 [4]).asked .u0 0x50 [4] ∧ 3 < (4 : Byte).toNat ∧ (asking 0x50 [3]).asked .u0 0x50 [3] ∧
    ((asking 0x50 [3]).port .u3).quarantined = false ∧ portCode .u3 = 3 ∧ s.asked .u0 0x50 [0] ∧
    (s.port .u0).quarantined = true := by
  refine ⟨asks (quiet.modPort .u0 fun c => { c with quarantined := true }) .u0 0x50 [0], ?_⟩
  repeat' apply And.intro
  all_goals decide

theorem test_hyps_LogReadRemovesTheOldest :
    (asking 0x60 [0]).asked .u0 0x60 [0] ∧ (asking 0x60 [5]).asked .u0 0x60 [5] ∧
    (asking 0x60 [1]).asked .u0 0x60 [1] ∧ (asking 0x60 [4]).asked .u0 0x60 [4] ∧ 4 < (5 : Byte).toNat ∧
    1 ≤ (1 : Byte).toNat ∧ (4 : Byte).toNat ≤ 4 := by
  repeat' apply And.intro
  all_goals decide

theorem test_hyps_RecordEntersOrIsTurnedAway :
    ((quiet.modLog .u0 fun l => { l with records := records 15 }).log .u0).records.length < 16 ∧
    ((quiet.modLog .u0 fun l => { l with records := records 16 }).log .u0).records = records 15 ++ records 1 ∧
    (records 15).length = 15 := by
  repeat' apply And.intro
  all_goals decide

/-- One command goes on, and another one than those that write the straps or the map. -/
theorem test_hyps_EveryCommandGoesOnAndLeavesTheQueue : (∃ t, exec (.stopDone .s0 []) quiet = .next t) ∧
    (∀ pulse straps, Instr.stopDone .s0 [] ≠ .deviceReset pulse straps) ∧
    (∀ p low, Instr.stopDone .s0 [] ≠ .mapSet p low) ∧ ∀ p low, Instr.stopDone .s0 [] ≠ .mapClear p low :=
  ⟨⟨_, rfl⟩, fun _ _ h => Instr.noConfusion h, fun _ _ h => Instr.noConfusion h, fun _ _ h => Instr.noConfusion h⟩

/-- The invariants hold together in one state, from which a step goes on. -/
theorem test_hyps_invariants : MapOk (leased quiet) ∧ LeaseTableOk (leased quiet) ∧
    (∀ p, LogOk ((leased quiet).port p).mask ((leased quiet).log p)) ∧ (∀ sg, ArbiterOk (leased quiet) sg) ∧
    (∀ p, PortOk ((leased quiet).port p)) ∧ (∀ p, ReplyOk ((leased quiet).port p)) ∧
    (∀ sg, SgcOk ((leased quiet).sgc sg)) ∧
    ∃ t, step (leased quiet) = .next t := by
  refine ⟨mapOk_of _ _ rfl (by decide), leasedOk _ (by intro q; cases q <;> decide), ?_, ?_, ?_, ?_, ?_, _, rfl⟩
  · intro p; cases p <;> exact ⟨by decide, trivial, by decide⟩
  · intro sg; cases sg <;> exact ⟨by decide, by decide⟩
  · intro p
    cases p <;> exact ⟨⟨by decide, by decide⟩, ⟨by decide, by decide⟩, ⟨by decide, by decide⟩, ⟨by decide, by decide⟩,
      by decide, by decide, by decide⟩
  · intro p; cases p <;> exact Nat.zero_le 56
  · intro sg
    cases sg <;> exact ⟨by decide, by decide, by decide, by decide, ⟨by decide, by decide⟩, ⟨by decide, by decide⟩,
      by decide, by decide⟩

theorem test_hyps_OwnershipInvariantIsKept : (∀ sg, ArbiterOk crossed sg) ∧ OwnershipOk crossed ∧
    ∃ t, step crossed = .next t := by
  refine ⟨fun sg => ?_, ownershipOk_of _ ?_ ?_ ?_ ?_ ?_, _, rfl⟩
  · cases sg <;> exact ⟨by decide, by decide⟩
  · intro sg; cases sg <;> decide
  · intro p; cases p <;> decide
  · intro sg; cases sg <;> decide
  · intro p sg; cases p <;> cases sg <;> decide
  · intro p; cases p <;> decide

end Sys2Proof.Tests
end

section
/-! Leases after reset (R40): what a full device reset leaves of the lease table and the logs, and which id a new lease
takes. -/

namespace Sys2Proof.Machine

/-! ### The parts of the state after a device reset -/

theorem exec_deviceReset_full (straps : Straps) (s : State) :
    exec (.deviceReset .full straps) s = .next (s.deviceReset straps) := rfl

@[simp] theorem State.leases_deviceReset (s : State) (straps : Straps) : (s.deviceReset straps).leases = [] := rfl

@[simp] theorem State.nextLeaseId_deviceReset (s : State) (straps : Straps) :
    (s.deviceReset straps).nextLeaseId = 1 := rfl

@[simp] theorem State.log_deviceReset (s : State) (straps : Straps) (p : Port) :
    (s.deviceReset straps).log p = Log.reset := by cases p <;> rfl

@[simp] theorem Log.records_reset : Log.reset.records = [] := rfl

/-! ### The id of a new lease (R25) -/

/-- R25 step 1: an id that no lease has is taken as it is, with any number of tries left. -/
theorem freeLeaseId_of_unused (leases : List Lease) (fuel : Nat) (id : Byte) (h : ∀ l ∈ leases, l.id ≠ id) :
    freeLeaseId leases fuel id = id := by
  cases fuel with
  | zero => rfl
  | succ fuel =>
    have hany : leases.any (·.id == id) = false := by simpa using h
    simp [freeLeaseId, hany]

/-- The counter's own value is the new lease's id unless a lease has it. -/
theorem State.id_newLease_of_unused (s : State) (p : Port) (sg : Seg) (target : Option Addr) (d : Word16)
    (h : ∀ l ∈ s.leases, l.id ≠ s.nextLeaseId) : (s.newLease p sg target d).id = s.nextLeaseId :=
  freeLeaseId_of_unused s.leases 255 s.nextLeaseId h

/-- R40: the table is empty after the reset, so the first lease takes the counter's value. -/
theorem State.id_newLease_deviceReset (s : State) (straps : Straps) (p : Port) (sg : Seg) (target : Option Addr)
    (d : Word16) : ((s.deviceReset straps).newLease p sg target d).id = 1 := by
  have hunused : ∀ l ∈ (s.deviceReset straps).leases, l.id ≠ (s.deviceReset straps).nextLeaseId := by simp
  rw [State.id_newLease_of_unused _ p sg target d hunused, State.nextLeaseId_deviceReset]

/-- Settles O5: the state after the reset has an empty table and empty logs, and no lease has the counter's id. -/
theorem deviceResetEmptiesTheLeaseTable : Obligations.DeviceResetEmptiesTheLeaseTable := by
  intro straps s
  have hlogs : ∀ p, ((s.deviceReset straps).log p).records = [] := by simp
  exact ⟨s.deviceReset straps, exec_deviceReset_full straps s, s.leases_deviceReset straps,
    s.nextLeaseId_deviceReset straps, hlogs, s.id_newLease_deviceReset straps⟩

end Sys2Proof.Machine
end

section
/-! Clearing and reading the route map (R110, R111): the bytes MAP_CLEAR and MAP_READ take, what each makes of the map,
and that the port is answered with it. -/

namespace Sys2Proof.Machine

/-! ### Address and index bytes (Table 10-1) -/

theorem addrOfByte_eq_none {b : Byte} (h : b.toNat < 0x08 ∨ 0x77 < b.toNat) : addrOfByte b = none := by
  have hrange : ¬ (0x08 ≤ b.toNat ∧ b.toNat ≤ 0x77) := by omega
  simp [addrOfByte, hrange]

@[simp] theorem toNat_addrCode (a : Addr) : (addrCode a).toNat = a.toNat := by
  have hlt : a.toNat < 2 ^ 8 := by omega
  rw [addrCode, BitVec.toNat_setWidth, Nat.mod_eq_of_lt hlt]

@[simp] theorem setWidth_addrCode (a : Addr) : (addrCode a).setWidth 7 = a := by
  apply BitVec.eq_of_toNat_eq
  rw [BitVec.toNat_setWidth, toNat_addrCode, Nat.mod_eq_of_lt a.isLt]

/-- An address a device may have is read back from its byte. -/
theorem addrOfByte_addrCode {a : Addr} (h : deviceAddress a) : addrOfByte (addrCode a) = some a := by
  obtain ⟨hlow, hhigh⟩ := h
  simp [addrOfByte, hlow, hhigh]

theorem indexOf_of_lt {b : Byte} (h : b.toNat < 32) : indexOf b = some b.toNat := if_pos h

theorem indexOf_eq_none {b : Byte} (h : 32 ≤ b.toNat) : indexOf b = none := if_neg (Nat.not_lt.mpr h)

/-! ### The entry with a visible address -/

theorem hasEntry_iff (m : List RouteEntry) (a : Addr) : hasEntry m a = true ↔ ∃ e ∈ m, e.visible = a := by
  simp [hasEntry]

/-- R100: in ascending order no other entry has an entry's visible address, so taking out that address takes out that
entry alone. -/
theorem filter_visible_ne_of_ascending {before after : List RouteEntry} {e : RouteEntry}
    (h : (before ++ e :: after).Pairwise fun x y => x.visible.toNat < y.visible.toNat) :
    ((before ++ e :: after).filter fun x => x.visible != e.visible) = before ++ after := by
  obtain ⟨_, hcons, hbefore⟩ := List.pairwise_append.mp h
  obtain ⟨hafter, _⟩ := List.pairwise_cons.mp hcons
  have ne_of_toNat_ne : ∀ x : RouteEntry, x.visible.toNat ≠ e.visible.toNat → (x.visible != e.visible) = true :=
    fun x hx => bne_iff_ne.mpr fun heq => hx (congrArg BitVec.toNat heq)
  have keepBefore : (before.filter fun x => x.visible != e.visible) = before :=
    List.filter_eq_self.mpr fun x hx => ne_of_toNat_ne x (hbefore x hx e List.mem_cons_self).ne
  have keepAfter : (after.filter fun x => x.visible != e.visible) = after :=
    List.filter_eq_self.mpr fun x hx => ne_of_toNat_ne x (hafter x hx).ne'
  rw [List.filter_append, List.filter_cons_of_neg (by simp), keepBefore, keepAfter]

/-! ### MAP_CLEAR on its argument (R110) -/

theorem mapClearBody_badArgument {b : Byte} (h : addrOfByte b = none) (s : State) :
    mapClearBody [b] s = ⟨s, ⟨.badArgument, []⟩⟩ := by
  simp [mapClearBody, h, refusedWith, Reply.bare]

theorem mapClearBody_notFound {a : Addr} (ha : deviceAddress a) {s : State} (h : ∀ e ∈ s.map, e.visible ≠ a) :
    mapClearBody [addrCode a] s = ⟨s, ⟨.notFound, []⟩⟩ := by
  have absent : ¬ hasEntry s.map a = true := by simpa [hasEntry_iff] using h
  simp [mapClearBody, addrOfByte_addrCode ha, absent, refusedWith, Reply.bare]

theorem mapClearBody_ok {e : RouteEntry} (he : deviceAddress e.visible) {s : State} {before after : List RouteEntry}
    (hm : s.map = before ++ e :: after)
    (hasc : s.map.Pairwise fun x y => x.visible.toNat < y.visible.toNat) :
    mapClearBody [addrCode e.visible] s = ⟨s.setMap (before ++ after), ⟨.ok, []⟩⟩ := by
  have present : hasEntry s.map e.visible = true := (hasEntry_iff _ _).mpr ⟨e, by simp [hm], rfl⟩
  have rest : (s.map.filter fun x => x.visible != e.visible) = before ++ after := by
    rw [hm] at hasc ⊢
    exact filter_visible_ne_of_ascending hasc
  simp [mapClearBody, addrOfByte_addrCode he, present, rest, Reply.bare]

/-! ### MAP_READ on its argument (R111) -/

theorem mapReadBody_badArgument {b : Byte} (h : 32 ≤ b.toNat) (s : State) :
    mapReadBody [b] s = ⟨s, ⟨.badArgument, []⟩⟩ := by
  simp [mapReadBody, indexOf_eq_none h, refusedWith, Reply.bare]

theorem mapReadBody_notFound {b : Byte} (h : b.toNat < 32) {s : State} (hlen : s.map.length ≤ b.toNat) :
    mapReadBody [b] s = ⟨s, ⟨.notFound, []⟩⟩ := by
  have noEntry : s.map[b.toNat]? = none := List.getElem?_eq_none hlen
  simp [mapReadBody, indexOf_of_lt h, noEntry, refusedWith, Reply.bare]

theorem mapReadBody_ok {b : Byte} (h : b.toNat < 32) {s : State} {e : RouteEntry} (he : s.map[b.toNat]? = some e) :
    mapReadBody [b] s = ⟨s, ⟨.ok, mapPayload s.map.length b.toNat e⟩⟩ := by
  simp [mapReadBody, indexOf_of_lt h, he]

/-! ### The two commands as a port asks them (R157, R158) -/

theorem argumentCount_le_five (id : CommandId) : argumentCount id ≤ 5 := by cases id <;> decide

/-- A command that passes the checks is answered with what its own steps give, if they leave the port's context. -/
theorem State.takeCommand_of_body {s t : State} {p : Port} {b : Byte} {args : List Byte} {id : CommandId}
    (h : s.asked p b args) (hc : commandOfByte b = some id) (h4 : args.length = argumentCount id)
    (h5 : needsPrivilege id = true → privileged s.straps p = true)
    (h6 : closedToQuarantined id = true → (s.port p).quarantined = false)
    {body : List Byte → State → Answered} {st : Status} {payload : List Byte}
    (hbody : body args s = ⟨t, ⟨st, payload⟩⟩) (hport : t.port p = s.port p) :
    s.takeCommand p id body = t.answered p st payload := by
  have ⟨_, noAddress⟩ := h
  have short : args.length ≤ 14 := by
    have := argumentCount_le_five id
    omega
  rw [State.takeCommand_asked h id hc short, State.checked_pass h4 h5 h6, hbody]
  exact State.finishCommand_noAddress (hport ▸ noAddress) st payload

theorem exec_mapClear_of_body {s t : State} {p : Port} {low : List Seg} {b : Byte} (h : s.asked p 0x41 [b])
    (hpriv : privileged s.straps p = true) {st : Status} {payload : List Byte}
    (hbody : mapClearBody [b] (s.sampleLines low) = ⟨t, ⟨st, payload⟩⟩) (hport : t.port p = s.port p) :
    exec (.mapClear p low) s = .next (t.answered p st payload) :=
  congrArg Host.Outcome.next <| State.takeCommand_of_body ((s.asked_sampleLines low p _ _).mpr h) rfl rfl
    (fun _ => hpriv) nofun hbody hport

theorem exec_mapRead_of_body {s : State} {p : Port} {low : List Seg} {b : Byte} (h : s.asked p 0x42 [b])
    {st : Status} {payload : List Byte}
    (hbody : mapReadBody [b] (s.sampleLines low) = ⟨s.sampleLines low, ⟨st, payload⟩⟩) :
    exec (.mapRead p low) s = .next ((s.sampleLines low).answered p st payload) :=
  congrArg Host.Outcome.next <| State.takeCommand_of_body ((s.asked_sampleLines low p _ _).mpr h) rfl rfl
    nofun nofun hbody rfl

/-- The payload with the index given as the byte that was asked. -/
theorem mapPayload_toNat (count : Nat) (b : Byte) (e : RouteEntry) :
    mapPayload count b.toNat e = [BitVec.ofNat 8 count, b, addrCode e.visible, segCode e.seg, addrCode e.downstream,
      portMaskCode e.ports, accessCode e.access] := by
  simp [mapPayload]

/-- Settles O50: each clause is the command's own steps on that argument, handed to the port as its answer. -/
theorem mapClearAndMapRead : Obligations.MapClearAndMapRead := by
  intro s p low b
  refine ⟨fun asked hpriv => ⟨fun outOfRange => ?_, ?_⟩, fun asked => ⟨fun outOfRange => ?_, ?_, ?_⟩⟩
  · exact exec_mapClear_of_body asked hpriv (mapClearBody_badArgument (addrOfByte_eq_none outOfRange) _) rfl
  · rintro a rfl ha
    refine ⟨fun absent => ?_, ?_⟩
    · exact exec_mapClear_of_body asked hpriv (mapClearBody_notFound ha absent) rfl
    · rintro before e after hmap rfl hok
      exact exec_mapClear_of_body asked hpriv (mapClearBody_ok ha hmap hok.ascending) rfl
  · exact exec_mapRead_of_body asked (mapReadBody_badArgument outOfRange _)
  · intro inRange pastEnd
    exact exec_mapRead_of_body asked (mapReadBody_notFound inRange pastEnd)
  · intro e inRange hentry
    rw [← mapPayload_toNat]
    exact exec_mapRead_of_body asked (mapReadBody_ok inRange hentry)

end Sys2Proof.Machine
end

section
/-! A record that reaches a log (R145, R146, R149): what it does to a log with room, to a full one, and so to the state. -/

namespace Sys2Proof.Machine

/-! ### A log with room, a full log -/

/-- R146: of the records held, the flag is set on the one at the tail. -/
theorem markTail_concat (older : List Record) (newest : Record) :
    markTail (older ++ [newest]) = older ++ [{ newest with lostAfter := true }] := by
  induction older with
  | nil => rfl
  | cons r rest ih => simp [markTail, ih]

/-- R145, R149. -/
theorem Log.enter_of_room {l : Log} (h : l.records.length < Config.logDepth) (mask : Word16) (b : RecordBody) :
    Log.enter mask b l =
      { records := l.records ++ [⟨l.nextSeq, false, b⟩], nextSeq := l.nextSeq + 1,
        attLow := l.attLow || maskHas mask b.kind } := if_pos h

/-- R146. -/
theorem Log.enter_of_full {l : Log} (h : Config.logDepth ≤ l.records.length) (mask : Word16) (b : RecordBody) :
    Log.enter mask b l = { l with records := markTail l.records } := if_neg (Nat.not_lt.mpr h)

/-- Settles O53: only the port's own log changes, and what becomes of it follows from whether it had room. -/
theorem recordEntersOrIsTurnedAway : Obligations.RecordEntersOrIsTurnedAway := by
  intro s p b
  refine ⟨fun room => ?_, fun older newest held full => ?_⟩
  · exact State.modLog_congr s p _ _ (Log.enter_of_room room _ b)
  · have atDepth : Config.logDepth ≤ (s.log p).records.length := by simp [held, full]
    apply State.modLog_congr
    rw [Log.enter_of_full atDepth, held, markTail_concat]

end Sys2Proof.Machine
end

section
/-! What every command carries over: the queue, the straps, the tables in form, the logs, ports and segment controllers in
range (R22 to R25, R100, R141, R149, R159; Tables 3-1 and 4-1). Kept says it of a transaction's operations; here are the
updates that Kept leaves out, and the shape of a command of the Engine. -/

namespace Sys2Proof.Machine

/-! ### The relation -/

/-- The queue and the straps are the same, the map too where keepsMap says so, and each invariant that speaks of one
table, log, port or controller is carried from s to t. -/
structure Carried (keepsMap : Prop) (s t : State) : Prop where
  pending : t.pending = s.pending
  straps : t.straps = s.straps
  map : keepsMap → t.map = s.map
  mapOk : MapOk s → MapOk t
  leaseTableOk : LeaseTableOk s → LeaseTableOk t
  logOk : (∀ p, LogOk (s.port p).mask (s.log p)) → ∀ p, LogOk (t.port p).mask (t.log p)
  portOk : (∀ p, PortOk (s.port p)) → ∀ p, PortOk (t.port p)
  sgcOk : (∀ sg, SgcOk (s.sgc sg)) → ∀ sg, SgcOk (t.sgc sg)
  replyOk : LeaseTableOk s → (∀ p, ReplyOk (s.port p)) → ∀ p, ReplyOk (t.port p)

theorem Carried.refl (k : Prop) (s : State) : Carried k s s :=
  ⟨rfl, rfl, fun _ => rfl, id, id, id, id, id, fun _ => id⟩

theorem Carried.trans {k : Prop} {s t u : State} (h : Carried k s t) (g : Carried k t u) : Carried k s u where
  pending := g.pending.trans h.pending
  straps := g.straps.trans h.straps
  map m := (g.map m).trans (h.map m)
  mapOk ok := g.mapOk (h.mapOk ok)
  leaseTableOk ok := g.leaseTableOk (h.leaseTableOk ok)
  logOk ok := g.logOk (h.logOk ok)
  portOk ok := g.portOk (h.portOk ok)
  sgcOk ok := g.sgcOk (h.sgcOk ok)
  replyOk table ok := g.replyOk (h.leaseTableOk table) (h.replyOk table ok)

theorem Kept.replyOk {s t : State} (h : Kept s t) (p : Port) (ok : ReplyOk (s.port p)) : ReplyOk (t.port p) := by
  unfold ReplyOk
  rw [(h.port p).reply]
  exact ok

theorem Kept.carried {s t : State} (h : Kept s t) (k : Prop) : Carried k s t where
  pending := h.pending
  straps := h.straps
  map _ := h.map
  mapOk := h.mapOk
  leaseTableOk := h.leaseTableOk
  logOk ok p := h.logOk p (ok p)
  portOk ok p := h.portOk p (ok p)
  sgcOk ok sg := h.sgcOk sg (ok sg)
  replyOk _ ok p := h.replyOk p (ok p)

/-! ### Updates of one part -/

theorem MapOk.congr {s t : State} (ok : MapOk s) (hm : t.map = s.map) (hs : t.straps = s.straps) : MapOk t :=
  ⟨hm ▸ ok.size, hm ▸ ok.ascending, by rw [hm, hs]; exact ok.entries⟩

/-- The lease table is in form where the table and the counter are the same and no port is quarantined that was not. -/
theorem LeaseTableOk.congr {s t : State} (ok : LeaseTableOk s) (hl : t.leases = s.leases)
    (hn : t.nextLeaseId = s.nextLeaseId)
    (hq : ∀ p, (t.port p).quarantined = true → (s.port p).quarantined = true) : LeaseTableOk t where
  size := hl ▸ ok.size
  perPort p := by unfold State.leasesHeld; rw [hl]; exact ok.perPort p
  ascending := hl ▸ ok.ascending
  apart := hl ▸ ok.apart
  records := hl ▸ ok.records
  counter := hn ▸ ok.counter
  quarantined p h := by unfold State.leasesHeld; rw [hl]; exact ok.quarantined p (hq p h)

theorem State.sampleLines_carried (s : State) (low : List Seg) (k : Prop) : Carried k s (s.sampleLines low) where
  pending := rfl
  straps := rfl
  map _ := rfl
  mapOk ok := ok.congr rfl rfl
  leaseTableOk ok := ok.congr rfl rfl fun _ => id
  logOk ok := ok
  portOk ok := ok
  sgcOk ok := ok
  replyOk _ ok := ok

/-- A fact about every port outlives an update of one port that keeps it there. -/
theorem State.forall_port_modPort {P : PortCtx → Prop} {s : State} {p : Port} {f : PortCtx → PortCtx}
    (h : ∀ q, P (s.port q)) (hf : P (s.port p) → P (f (s.port p))) (q : Port) : P ((s.modPort p f).port q) := by
  by_cases e : q = p
  · subst e; rw [State.port_modPort_same]; exact hf (h q)
  · rw [State.port_modPort_ne _ _ _ e]; exact h q

/-- A fact about every controller outlives an update of one controller that keeps it there. -/
theorem State.forall_sgc_modSgc {P : Sgc → Prop} {s : State} {sg : Seg} {f : Sgc → Sgc}
    (h : ∀ x, P (s.sgc x)) (hf : P (s.sgc sg) → P (f (s.sgc sg))) (x : Seg) : P ((s.modSgc sg f).sgc x) := by
  by_cases e : x = sg
  · subst e; rw [State.sgc_modSgc_same]; exact hf (h x)
  · rw [State.sgc_modSgc_ne _ _ _ e]; exact h x

/-- A port's update that keeps the mask, and that does not quarantine the port, after what was carried before. -/
theorem Carried.modPort {k : Prop} {u s : State} (h : Carried k u s) (p : Port) (f : PortCtx → PortCtx)
    (hmask : (f (s.port p)).mask = (s.port p).mask)
    (hquar : (f (s.port p)).quarantined = true → (s.port p).quarantined = true)
    (hok : PortOk (s.port p) → PortOk (f (s.port p)))
    (hreply : LeaseTableOk u → ReplyOk (s.port p) → ReplyOk (f (s.port p))) : Carried k u (s.modPort p f) where
  pending := h.pending
  straps := h.straps
  map := h.map
  mapOk ok := (h.mapOk ok).congr rfl rfl
  leaseTableOk ok := by
    refine (h.leaseTableOk ok).congr rfl rfl fun q => ?_
    by_cases e : q = p
    · subst e; rw [State.port_modPort_same]; exact hquar
    · rw [State.port_modPort_ne _ _ _ e]; exact id
  logOk ok q := by
    by_cases e : q = p
    · subst e; rw [State.port_modPort_same, hmask]; exact h.logOk ok q
    · rw [State.port_modPort_ne _ _ _ e]; exact h.logOk ok q
  portOk ok := State.forall_port_modPort (h.portOk ok) hok
  sgcOk := h.sgcOk
  replyOk table ok := State.forall_port_modPort (h.replyOk table ok) (hreply table)

/-- A controller's update that keeps its invariant. -/
theorem Carried.modSgc (k : Prop) (s : State) (sg : Seg) (f : Sgc → Sgc) (hok : SgcOk (s.sgc sg) → SgcOk (f (s.sgc sg))) :
    Carried k s (s.modSgc sg f) where
  pending := rfl
  straps := rfl
  map _ := rfl
  mapOk ok := ok.congr rfl rfl
  leaseTableOk ok := ok.congr rfl rfl fun _ => id
  logOk ok := ok
  portOk ok := ok
  sgcOk ok := State.forall_sgc_modSgc ok hok
  replyOk _ ok := ok

/-- A log's update that keeps its invariant. -/
theorem Carried.modLog (k : Prop) (s : State) (p : Port) (f : Log → Log)
    (hok : LogOk (s.port p).mask (s.log p) → LogOk (s.port p).mask (f (s.log p))) : Carried k s (s.modLog p f) where
  pending := rfl
  straps := rfl
  map _ := rfl
  mapOk ok := ok.congr rfl rfl
  leaseTableOk ok := ok.congr rfl rfl fun _ => id
  logOk ok q := by
    by_cases e : q = p
    · subst e; rw [State.log_modLog_same]; exact hok (ok q)
    · rw [State.log_modLog_ne _ _ _ e]; exact ok q
  portOk ok := ok
  sgcOk ok := ok
  replyOk _ ok := ok

/-- The map replaced by one in form. -/
theorem Carried.setMap (s : State) (m : List RouteEntry) (hok : MapOk s → MapOk (s.setMap m)) :
    Carried False s (s.setMap m) where
  pending := rfl
  straps := rfl
  map := False.elim
  mapOk := hok
  leaseTableOk ok := ok.congr rfl rfl fun _ => id
  logOk ok := ok
  portOk ok := ok
  sgcOk ok := ok
  replyOk _ ok := ok

/-- The lease table replaced by one in form. -/
theorem Carried.setLeases (k : Prop) (s : State) (ls : List Lease)
    (hok : LeaseTableOk s → LeaseTableOk (s.setLeases ls)) : Carried k s (s.setLeases ls) where
  pending := rfl
  straps := rfl
  map _ := rfl
  mapOk ok := ok.congr rfl rfl
  leaseTableOk := hok
  logOk ok := ok
  portOk ok := ok
  sgcOk ok := ok
  replyOk _ ok := ok

/-! ### A command of the Engine (R157 to R159) -/

/-- The reply written and a held address resolved, after what the command's own steps carried. -/
theorem Carried.finishCommand {k : Prop} {u s : State} (h : Carried k u s) (p : Port) (r : Reply)
    (hr : LeaseTableOk u → r.payload.length ≤ 56) : Carried k u (s.finishCommand p r) := by
  have written : Carried k u (s.modPort p fun c => { c with reply := r, handed := none }) := by
    refine h.modPort p _ rfl id (fun ok => ?_) fun table _ => hr table
    obtain ⟨h1, h2, h3, h4, h5, h6, h7⟩ := ok
    exact ⟨h1, h2, h3, h4, h5, h6, h7⟩
  unfold State.finishCommand
  simp only
  split
  · exact written.trans ((State.resolve_kept _ _ _).carried k)
  · exact written

/-- What a command's own steps have to keep, from a state in which the checks before them have passed (R158). -/
structure BodyCarried (keepsMap : Prop) (s : State) (a : Answered) : Prop where
  state : Carried keepsMap s a.state
  reply : LeaseTableOk s → a.reply.payload.length ≤ 56

theorem refusedWith_carried (k : Prop) (s : State) (st : Status) : BodyCarried k s (refusedWith s st) :=
  ⟨.refl k s, fun _ => Nat.zero_le _⟩

theorem State.checked_carried {k : Prop} (s : State) (p : Port) (id : CommandId) (args : List Byte)
    (body : List Byte → State → Answered)
    (h : (closedToQuarantined id = true → (s.port p).quarantined = false) → BodyCarried k s (body args s)) :
    BodyCarried k s (s.checked p id args body) := by
  unfold State.checked
  split
  · exact refusedWith_carried k s _
  · split
    · exact refusedWith_carried k s _
    · split
      · exact refusedWith_carried k s _
      · rename_i open6
        refine h fun closed => ?_
        simpa [closed] using open6

theorem State.takeCommand_carried {k : Prop} (s : State) (p : Port) (id : CommandId) (body : List Byte → State → Answered)
    (h : ∀ args, (closedToQuarantined id = true → (s.port p).quarantined = false) → BodyCarried k s (body args s)) :
    Carried k s (s.takeCommand p id body) := by
  unfold State.takeCommand
  split
  · exact .refl k s
  · split
    · exact .refl k s
    · rename_i c args _
      split
      · have done := State.checked_carried s p id args body (h args)
        exact done.state.finishCommand p _ done.reply
      · exact .refl k s

end Sys2Proof.Machine
end

section
/-! The lease table and the route map as data: ids (R25), overlap (R23), the place of a new lease, of a new entry (R100,
R109), and the arguments that carry them (Table 10-1). -/

namespace Sys2Proof.Machine

/-! ### The id of a new lease (R25) -/

theorem toNat_idAfter {id : Byte} (h : id ≠ 0) : (idAfter id).toNat = id.toNat % 255 + 1 := by
  have pos : id.toNat ≠ 0 := fun e => h (BitVec.eq_of_toNat_eq e)
  unfold idAfter
  split
  · rename_i last
    have : id = 255 := by simpa using last
    subst this; rfl
  · rename_i notLast
    have : id.toNat ≠ 255 := fun e => notLast (by simpa using BitVec.eq_of_toNat_eq (y := (255 : Byte)) e)
    have one : (1 : Byte).toNat = 1 := rfl
    rw [BitVec.toNat_add, one]
    omega

theorem idAfter_ne_zero {id : Byte} (h : id ≠ 0) : idAfter id ≠ 0 := by
  intro e
  have : (idAfter id).toNat = 0 := by rw [e]; rfl
  rw [toNat_idAfter h] at this
  omega

theorem iterate_idAfter_ne_zero {id : Byte} (h : id ≠ 0) (k : Nat) : idAfter^[k] id ≠ 0 :=
  Function.Iterate.rec (· ≠ 0) h (fun _ => idAfter_ne_zero) k

theorem toNat_iterate_idAfter {id : Byte} (h : id ≠ 0) (k : Nat) :
    (idAfter^[k] id).toNat = (id.toNat - 1 + k) % 255 + 1 := by
  induction k with
  | zero =>
    have pos : id.toNat ≠ 0 := fun e => h (BitVec.eq_of_toNat_eq e)
    simp only [Function.iterate_zero, id_eq, Nat.add_zero]
    omega
  | succ k ih =>
    rw [Function.iterate_succ_apply', toNat_idAfter (iterate_idAfter_ne_zero h k), ih]
    omega

/-- R25: the first id from the counter on that no lease has. -/
theorem freeLeaseId_eq_iterate {leases : List Lease} {k : Nat} {id : Byte} (used : ∀ j < k, ∃ l ∈ leases, l.id = idAfter^[j] id)
    (free : ∀ l ∈ leases, l.id ≠ idAfter^[k] id) {fuel : Nat} (hk : k ≤ fuel) :
    freeLeaseId leases fuel id = idAfter^[k] id := by
  induction k generalizing id fuel with
  | zero => exact freeLeaseId_of_unused leases fuel id free
  | succ k ih =>
    obtain ⟨fuel, rfl⟩ : ∃ n, fuel = n + 1 := ⟨fuel - 1, by omega⟩
    have first : leases.any (·.id == id) = true := by simpa using used 0 (Nat.succ_pos k)
    rw [freeLeaseId, if_pos first, Function.iterate_succ_apply]
    exact ih (fun j hj => by simpa using used (j + 1) (Nat.succ_lt_succ hj)) free (Nat.le_of_succ_le_succ hk)

/-- With room in the table one of the first eight ids from the counter on is free. -/
theorem exists_free_iterate {leases : List Lease} (room : leases.length < 8) {id : Byte} (h : id ≠ 0) :
    ∃ k < 8, ∀ l ∈ leases, l.id ≠ idAfter^[k] id := by
  by_contra allUsed
  push Not at allUsed
  have distinct : ((List.range 8).map fun j => idAfter^[j] id).Nodup := by
    refine List.Nodup.map_on (fun i hi j hj e => ?_) List.nodup_range
    have := congrArg BitVec.toNat e
    rw [toNat_iterate_idAfter h, toNat_iterate_idAfter h] at this
    rw [List.mem_range] at hi hj
    omega
  have within : ((List.range 8).map fun j => idAfter^[j] id) ⊆ leases.map (·.id) := by
    intro x hx
    obtain ⟨j, hj, rfl⟩ := List.mem_map.mp hx
    obtain ⟨l, hl, e⟩ := allUsed j (List.mem_range.mp hj)
    exact List.mem_map.mpr ⟨l, hl, e⟩
  have := (List.subperm_of_subset distinct within).length_le
  simp only [List.length_map, List.length_range] at this
  omega

/-- R25: with room in the table the id found is some steps from the counter, and no lease has it. -/
theorem freeLeaseId_spec {leases : List Lease} (room : leases.length < 8) {id : Byte} (h : id ≠ 0) :
    freeLeaseId leases 255 id ≠ 0 ∧ ∀ l ∈ leases, l.id ≠ freeLeaseId leases 255 id := by
  classical
  have ex := exists_free_iterate room h
  have found := Nat.find_spec ex
  have used : ∀ j < Nat.find ex, ∃ l ∈ leases, l.id = idAfter^[j] id := by
    intro j hj
    have least := Nat.find_min ex hj
    push Not at least
    exact least (hj.trans found.1)
  rw [freeLeaseId_eq_iterate used found.2 (by omega)]
  exact ⟨iterate_idAfter_ne_zero h _, found.2⟩

/-! ### Overlap (R23) and the place of a new lease -/

theorem Lease.overlaps_comm (a b : Lease) : a.overlaps b.seg b.target = b.overlaps a.seg a.target := by
  unfold Lease.overlaps
  rw [Bool.beq_comm (a := a.seg)]
  congr 1
  cases a.target <;> cases b.target <;> simp [Bool.beq_comm]

theorem insertLease_perm (l : Lease) (ls : List Lease) : (insertLease l ls).Perm (l :: ls) := by
  induction ls with
  | nil => exact .refl _
  | cons x rest ih =>
    unfold insertLease
    split
    · exact .refl _
    · exact (ih.cons x).trans (.swap l x rest)

theorem insertLease_ascending {l : Lease} {ls : List Lease} (h : ls.Pairwise fun a b => a.id.toNat < b.id.toNat)
    (new : ∀ x ∈ ls, x.id ≠ l.id) : (insertLease l ls).Pairwise fun a b => a.id.toNat < b.id.toNat := by
  induction ls with
  | nil => exact List.pairwise_singleton _ _
  | cons x rest ih =>
    obtain ⟨hx, hrest⟩ := List.pairwise_cons.mp h
    unfold insertLease
    split
    · rename_i before
      refine List.pairwise_cons.mpr ⟨fun y hy => ?_, h⟩
      rcases List.mem_cons.mp hy with rfl | hy
      · exact before
      · exact before.trans (hx y hy)
    · rename_i notBefore
      have apart : x.id.toNat ≠ l.id.toNat := fun e => new x List.mem_cons_self (BitVec.eq_of_toNat_eq e)
      refine List.pairwise_cons.mpr ⟨fun y hy => ?_, ih hrest fun y hy => new y (List.mem_cons_of_mem _ hy)⟩
      rcases List.mem_cons.mp ((insertLease_perm l rest).mem_iff.mp hy) with rfl | hy
      · omega
      · exact hx y hy

/-- In ascending order of id a lease of the table is the one its id finds. -/
theorem State.leaseOf_of_mem {s : State} (h : s.leases.Pairwise fun a b => a.id.toNat < b.id.toNat) {l : Lease}
    (hl : l ∈ s.leases) : s.leaseOf l.id = some l := by
  unfold State.leaseOf
  generalize s.leases = ls at h hl
  induction ls with
  | nil => exact absurd hl List.not_mem_nil
  | cons x rest ih =>
    obtain ⟨hx, hrest⟩ := List.pairwise_cons.mp h
    rcases List.mem_cons.mp hl with rfl | hl
    · simp
    · have other : (x.id == l.id) = false := by
        refine beq_false_of_ne fun e => ?_
        have := hx l hl
        rw [e] at this
        omega
      rw [List.find?_cons, other]
      exact ih hrest hl

theorem State.leaseOf_eq_none {s : State} {id : Byte} (h : ∀ l ∈ s.leases, l.id ≠ id) : s.leaseOf id = none := by
  simpa [State.leaseOf] using h

/-! ### The place of a route entry (R100, R109) -/

theorem putEntry_insert {e : RouteEntry} {before after : List RouteEntry}
    (hb : ∀ x ∈ before, x.visible.toNat < e.visible.toNat) (ha : ∀ x ∈ after, e.visible.toNat < x.visible.toNat) :
    putEntry e (before ++ after) = before ++ e :: after := by
  induction before with
  | nil =>
    cases after with
    | nil => rfl
    | cons x rest => exact if_pos (ha x List.mem_cons_self)
  | cons x rest ih =>
    have hx := hb x List.mem_cons_self
    have other : (e.visible == x.visible) = false := beq_false_of_ne fun h => by rw [h] at hx; omega
    rw [List.cons_append, putEntry, if_neg (by omega), other, if_neg Bool.false_ne_true,
      ih fun y hy => hb y (List.mem_cons_of_mem _ hy)]
    rfl

theorem putEntry_replace {e old : RouteEntry} {before after : List RouteEntry} (he : old.visible = e.visible)
    (hb : ∀ x ∈ before, x.visible.toNat < e.visible.toNat) :
    putEntry e (before ++ old :: after) = before ++ e :: after := by
  induction before with
  | nil => simp [putEntry, he]
  | cons x rest ih =>
    have hx := hb x List.mem_cons_self
    have other : (e.visible == x.visible) = false := beq_false_of_ne fun h => by rw [h] at hx; omega
    rw [List.cons_append, putEntry, if_neg (by omega), other, if_neg Bool.false_ne_true,
      ih fun y hy => hb y (List.mem_cons_of_mem _ hy)]
    rfl

/-- A map in ascending order falls into the entries below an address, the one with it if there is one, and those above. -/
theorem ascending_split {m : List RouteEntry} (h : m.Pairwise fun a b => a.visible.toNat < b.visible.toNat) (a : Addr) :
    ∃ before mid after, m = before ++ mid ++ after ∧ (∀ x ∈ before, x.visible.toNat < a.toNat) ∧
      (∀ x ∈ after, a.toNat < x.visible.toNat) ∧ (mid = [] ∨ ∃ old : RouteEntry, mid = [old] ∧ old.visible = a) := by
  induction m with
  | nil => exact ⟨[], [], [], rfl, nofun, nofun, .inl rfl⟩
  | cons x rest ih =>
    obtain ⟨hx, hrest⟩ := List.pairwise_cons.mp h
    rcases Nat.lt_trichotomy x.visible.toNat a.toNat with lt | eq | gt
    · obtain ⟨before, mid, after, rfl, hb, ha, hm⟩ := ih hrest
      refine ⟨x :: before, mid, after, rfl, fun y hy => ?_, ha, hm⟩
      rcases List.mem_cons.mp hy with rfl | hy
      · exact lt
      · exact hb y hy
    · exact ⟨[], [x], rest, rfl, nofun, fun y hy => eq ▸ hx y hy, .inr ⟨x, rfl, BitVec.eq_of_toNat_eq eq⟩⟩
    · refine ⟨[], [], x :: rest, rfl, nofun, fun y hy => ?_, .inl rfl⟩
      rcases List.mem_cons.mp hy with rfl | hy
      · exact gt
      · exact gt.trans (hx y hy)

theorem hasEntry_of_absent {a : Addr} {before after : List RouteEntry} (hb : ∀ x ∈ before, x.visible.toNat < a.toNat)
    (ha : ∀ x ∈ after, a.toNat < x.visible.toNat) : hasEntry (before ++ after) a = false := by
  refine Bool.eq_false_iff.mpr fun present => ?_
  obtain ⟨x, hx, rfl⟩ := (hasEntry_iff _ _).mp present
  rcases List.mem_append.mp hx with hx | hx
  · exact Nat.lt_irrefl _ (hb x hx)
  · exact Nat.lt_irrefl _ (ha x hx)

theorem hasEntry_of_present {old : RouteEntry} {a : Addr} (h : old.visible = a) (before after : List RouteEntry) :
    hasEntry (before ++ old :: after) a = true := (hasEntry_iff _ _).mpr ⟨old, by simp, h⟩

/-- An entry put between what lies below it and what lies above it keeps the order. -/
theorem ascending_put {e : RouteEntry} {before mid after : List RouteEntry}
    (h : (before ++ mid ++ after).Pairwise fun a b => a.visible.toNat < b.visible.toNat)
    (hb : ∀ x ∈ before, x.visible.toNat < e.visible.toNat) (ha : ∀ x ∈ after, e.visible.toNat < x.visible.toNat) :
    (before ++ e :: after).Pairwise fun a b => a.visible.toNat < b.visible.toNat := by
  obtain ⟨hfront, hafter, hcross⟩ := List.pairwise_append.mp h
  obtain ⟨hbefore, _, _⟩ := List.pairwise_append.mp hfront
  refine List.pairwise_append.mpr ⟨hbefore, List.pairwise_cons.mpr ⟨ha, hafter⟩, fun x hx y hy => ?_⟩
  rcases List.mem_cons.mp hy with rfl | hy
  · exact hb x hx
  · exact hcross x (List.mem_append_left _ hx) y hy

/-! ### Arguments (Table 10-1) -/

theorem addrOfByte_some {b : Byte} {a : Addr} (h : addrOfByte b = some a) : deviceAddress a := by
  unfold addrOfByte at h
  split at h
  · rename_i range
    simp only [Bool.and_eq_true, decide_eq_true_eq] at range
    obtain rfl := Option.some.inj h
    unfold deviceAddress
    rw [BitVec.toNat_setWidth, Nat.mod_eq_of_lt (by omega)]
    exact range
  · contradiction

theorem targetOfByte_some {b : Byte} {t : Option Addr} (h : targetOfByte b = some t) : ∀ a ∈ t, deviceAddress a := by
  unfold targetOfByte at h
  split at h
  · obtain rfl := Option.some.inj h
    nofun
  · obtain ⟨a, ha, rfl⟩ := Option.map_eq_some_iff.mp h
    rintro _ ⟨⟩
    exact addrOfByte_some ha

theorem durationOf_some {hi lo : Byte} {d : Word16} (h : durationOf hi lo = some d) : 1 ≤ d.toNat ∧ d.toNat ≤ 60000 := by
  unfold durationOf at h
  simp only at h
  split at h
  · rename_i range
    obtain rfl := Option.some.inj h
    simpa using range
  · contradiction

theorem portLimitOf_some {b v : Byte} (h : portLimitOf b = some v) : limitRange v := by
  unfold portLimitOf at h
  split at h
  · rename_i range
    obtain rfl := Option.some.inj h
    simpa [limitRange] using range
  · contradiction

theorem stuckLimitOf_some {b v : Byte} (h : stuckLimitOf b = some v) : stuckRange v := by
  unfold stuckLimitOf at h
  split at h
  · rename_i range
    obtain rfl := Option.some.inj h
    simpa [stuckRange] using range
  · contradiction

theorem maskOf_some {hi lo : Byte} {w : Word16} (h : maskOf hi lo = some w) : w.getLsbD 15 = false := by
  unfold maskOf at h
  simp only at h
  split at h
  · contradiction
  · rename_i clear
    obtain rfl := Option.some.inj h
    simpa using clear

theorem portMaskOf_some {b : Byte} {m : PerPort Bool} (h : portMaskOf b = some m) : ∃ p, m.get p = true := by
  unfold portMaskOf at h
  split at h
  · rename_i range
    simp only [Bool.and_eq_true, decide_eq_true_eq] at range
    obtain rfl := Option.some.inj h
    obtain ⟨low, high⟩ := range
    by_contra none
    push Not at none
    have h0 := none .u0
    have h1 := none .u1
    have h2 := none .u2
    have h3 := none .u3
    simp only [PerPort.get] at h0 h1 h2 h3
    have : b.toNat = 0 := by
      have : ∀ b : Fin 16, b ≠ 0 → (b.val.testBit 0 ∨ b.val.testBit 1 ∨ b.val.testBit 2 ∨ b.val.testBit 3) := by decide
      have bits := this ⟨b.toNat, by omega⟩
      simp only [BitVec.testBit_toNat] at bits
      by_contra pos
      rcases bits (fun e => pos (congrArg Fin.val e)) with x | x | x | x <;> contradiction
    omega
  · contradiction

theorem accessOf_some {b : Byte} {a : Access} (h : accessOf b = some a) : a.read = true ∨ a.write = true := by
  unfold accessOf at h
  split at h
  · rename_i range
    simp only [Bool.and_eq_true, decide_eq_true_eq] at range
    obtain rfl := Option.some.inj h
    have bits : ∀ n : Fin 4, n ≠ 0 → (n.val.testBit 0 ∨ n.val.testBit 1) := by decide
    have := bits ⟨b.toNat, by omega⟩ fun e => by
      have := congrArg Fin.val e
      simp only [Fin.val_zero] at this
      omega
    simpa only [BitVec.testBit_toNat] using this
  · contradiction

end Sys2Proof.Machine
end

section
/-! What each command carries over, and with it the invariants of the tables, logs, ports and segment controllers. -/

namespace Sys2Proof.Machine

/-! ### The lease commands -/

theorem LeaseTableOk.insert {s : State} (ok : LeaseTableOk s) {l : Lease} (hl : LeaseOk l)
    (apart : ∀ x ∈ s.leases, x.overlaps l.seg l.target = false) (unused : ∀ x ∈ s.leases, x.id ≠ l.id)
    (room : s.leases.length < Config.leaseCapacity) (roomOfPort : (s.leasesHeld l.holder).length < Config.leasesPerPort)
    (free : (s.port l.holder).quarantined = false) :
    LeaseTableOk { s with leases := insertLease l s.leases, nextLeaseId := idAfter l.id } where
  size := by
    rw [(insertLease_perm l s.leases).length_eq, List.length_cons]
    exact room
  perPort p := by
    have held := ((insertLease_perm l s.leases).filter fun x => x.holder == p).length_eq
    unfold State.leasesHeld
    rw [held, List.filter_cons]
    split
    · rename_i own
      obtain rfl : l.holder = p := by simpa using own
      exact roomOfPort
    · exact ok.perPort p
  ascending := insertLease_ascending ok.ascending unused
  apart := by
    refine ((insertLease_perm l s.leases).pairwise_iff fun {a b} h => (Lease.overlaps_comm b a).trans h).mpr ?_
    exact List.pairwise_cons.mpr ⟨fun x hx => (Lease.overlaps_comm l x).trans (apart x hx), ok.apart⟩
  records x hx := by
    rcases List.mem_cons.mp ((insertLease_perm l s.leases).mem_iff.mp hx) with rfl | hx
    · exact hl
    · exact ok.records x hx
  counter := idAfter_ne_zero hl.id
  quarantined p q := by
    have none := ok.quarantined p q
    have other : (l.holder == p) = false := beq_false_of_ne fun e => by
      subst e
      rw [show (s.port l.holder).quarantined = true from q] at free
      contradiction
    have held := (insertLease_perm l s.leases).filter fun x => x.holder == p
    rw [List.filter_cons, other, if_neg Bool.false_ne_true] at held
    unfold State.leasesHeld at none ⊢
    rw [none] at held
    exact held.eq_nil

theorem State.grantLease_carried (s : State) (l : Lease) (k : Prop)
    (h : LeaseTableOk s → LeaseTableOk { s with leases := insertLease l s.leases, nextLeaseId := idAfter l.id }) :
    Carried k s (s.grantLease l) := by
  have entered : Carried k s { s with leases := insertLease l s.leases, nextLeaseId := idAfter l.id } :=
    ⟨rfl, rfl, fun _ => rfl, fun ok => ok.congr rfl rfl, h, id, id, id, fun _ => id⟩
  exact entered.trans ((State.leaseHandOver_kept _ l).carried k)

theorem State.newLease_tableOk {s : State} (ok : LeaseTableOk s) {p : Port} {sg : Seg} {target : Option Addr} {d : Word16}
    (ht : ∀ a ∈ target, deviceAddress a) (hd : 1 ≤ d.toNat ∧ d.toNat ≤ 60000)
    (apart : s.overlapping sg target = []) (room : s.leases.length < Config.leaseCapacity)
    (roomOfPort : (s.leasesHeld p).length < Config.leasesPerPort) (free : (s.port p).quarantined = false) :
    LeaseTableOk { s with leases := insertLease (s.newLease p sg target d) s.leases
                          nextLeaseId := idAfter (s.newLease p sg target d).id } := by
  obtain ⟨idPos, unused⟩ := freeLeaseId_spec room ok.counter
  refine ok.insert ⟨idPos, ht, hd, nofun⟩ (fun x hx => ?_) unused room roomOfPort free
  exact Bool.eq_false_iff.mpr (List.filter_eq_nil_iff.mp apart x hx)

theorem State.reserve_carried (s : State) (k : Prop) {p : Port} {sg : Seg} {target : Option Addr} {d : Word16}
    (ht : ∀ a ∈ target, deviceAddress a) (hd : 1 ≤ d.toNat ∧ d.toNat ≤ 60000)
    (free : (s.port p).quarantined = false) : BodyCarried k s (s.reserve p sg target d) := by
  unfold State.reserve
  split
  · exact ⟨.refl k s, fun _ => by simp⟩
  · split
    · exact ⟨.refl k s, fun _ => by simp⟩
    · rename_i apart
      split
      · rename_i room
        simp only [Bool.and_eq_true, decide_eq_true_eq] at room
        obtain ⟨room, roomOfPort⟩ := room
        exact ⟨State.grantLease_carried s _ k fun ok => State.newLease_tableOk ok ht hd apart room roomOfPort free,
          fun _ => by simp⟩
      · exact refusedWith_carried k s _

theorem reserveBody_carried (k : Prop) (s : State) (p : Port) (args : List Byte)
    (free : (s.port p).quarantined = false) : BodyCarried k s (reserveBody p args s) := by
  unfold reserveBody
  split
  · split
    · rename_i ht hd
      exact State.reserve_carried s k (targetOfByte_some ht) (durationOf_some hd) free
    · exact refusedWith_carried k s _
  · exact refusedWith_carried k s _

/-- The table with each lease changed in its time and its field due alone. -/
theorem LeaseTableOk.mapTimes {s : State} (ok : LeaseTableOk s) {f : Lease → Lease}
    (hid : ∀ l, (f l).id = l.id) (hholder : ∀ l, (f l).holder = l.holder) (hseg : ∀ l, (f l).seg = l.seg)
    (htarget : ∀ l, (f l).target = l.target) (hok : ∀ l, LeaseOk l → LeaseOk (f l)) :
    LeaseTableOk (s.setLeases (s.leases.map f)) := by
  have held : ∀ p, (s.setLeases (s.leases.map f)).leasesHeld p = (s.leasesHeld p).map f := by
    intro p
    simp [State.leasesHeld, List.filter_map, Function.comp_def, hholder]
  refine ⟨?_, fun p => ?_, ?_, ?_, fun l hl => ?_, ok.counter, fun p q => ?_⟩
  · simpa using ok.size
  · rw [held, List.length_map]; exact ok.perPort p
  · exact List.pairwise_map.mpr (by simpa only [hid] using ok.ascending)
  · refine List.pairwise_map.mpr (ok.apart.imp fun {a b} h => ?_)
    simpa only [Lease.overlaps, hseg, htarget] using h
  · obtain ⟨x, hx, rfl⟩ := List.mem_map.mp hl
    exact hok x (ok.records x hx)
  · rw [held, ok.quarantined p q]; rfl

theorem renewBody_carried (k : Prop) (s : State) (p : Port) (args : List Byte) :
    BodyCarried k s (renewBody p args s) := by
  unfold renewBody
  split
  · split
    · rename_i hd
      split
      · split
        · refine ⟨Carried.setLeases k s _ fun ok => ?_, fun _ => by simp⟩
          refine ok.mapTimes ?_ ?_ ?_ ?_ fun l hl => ?_
          all_goals try (intro l; split <;> rfl)
          split
          · exact ⟨hl.id, hl.target, durationOf_some hd, nofun⟩
          · exact hl
        · exact refusedWith_carried k s _
      · exact refusedWith_carried k s _
    · exact refusedWith_carried k s _
  · exact refusedWith_carried k s _

theorem State.removeLease_kept (s : State) (id : Byte) : Kept s (s.setLeases (removeLease id s.leases)) :=
  Kept.setLeases s _ List.filter_sublist

theorem releaseBody_carried (k : Prop) (s : State) (p : Port) (args : List Byte) :
    BodyCarried k s (releaseBody p args s) := by
  unfold releaseBody
  split
  · split
    · exact refusedWith_carried k s _
    · split
      · split
        · exact ⟨(s.removeLease_kept _).carried k, fun _ => Nat.zero_le _⟩
        · exact refusedWith_carried k s _
      · exact refusedWith_carried k s _
  · exact refusedWith_carried k s _

theorem revokeBody_carried (k : Prop) (s : State) (args : List Byte) : BodyCarried k s (revokeBody args s) := by
  unfold revokeBody
  split
  · split
    · exact refusedWith_carried k s _
    · split
      · exact ⟨((s.removeLease_kept _).trans (State.writeRecord_kept _ _ _)).carried k, fun _ => by simp⟩
      · exact refusedWith_carried k s _
  · exact refusedWith_carried k s _

theorem length_wordBytes (w : Word16) : (wordBytes w).length = 2 := rfl

theorem length_leaseListPayload (ls : List Lease) : (leaseListPayload ls).length = 1 + 5 * ls.length := by
  have five : ∀ l ∈ ls, (leaseBytes l).length = 5 := fun l _ => rfl
  rw [leaseListPayload, List.length_cons, List.length_flatMap, List.map_congr_left five, List.map_const', List.sum_replicate]
  simp only [smul_eq_mul]
  omega

theorem leaseListBody_carried (k : Prop) (s : State) (args : List Byte) : BodyCarried k s (leaseListBody args s) := by
  refine ⟨.refl k s, fun ok => ?_⟩
  have : s.leases.length ≤ 8 := ok.size
  simp only [leaseListBody, length_leaseListPayload]
  omega

/-! ### The map commands -/

theorem State.mapSet_carried (s : State) (e : RouteEntry) (he : EntryOk s.straps e) :
    BodyCarried False s (s.mapSet e) := by
  unfold State.mapSet
  simp only
  split
  · exact refusedWith_carried False s _
  · rename_i room
    refine ⟨Carried.setMap s _ fun ok => ?_, fun _ => by simp⟩
    obtain ⟨before, mid, after, hm, hb, ha, hmid⟩ := ascending_split ok.ascending e.visible
    have put : putEntry e s.map = before ++ e :: after ∧ (before ++ e :: after).length ≤ Config.routeCapacity := by
      rcases hmid with rfl | ⟨old, rfl, hold⟩
      · rw [List.append_nil] at hm
        have absent := hasEntry_of_absent hb ha
        rw [hm] at room ⊢
        refine ⟨putEntry_insert hb ha, ?_⟩
        simp only [absent, Bool.not_false, Bool.true_and, decide_eq_true_eq, not_le, List.length_append] at room
        rw [List.length_append, List.length_cons]
        omega
      · rw [List.append_assoc, List.singleton_append] at hm
        have size := ok.size
        rw [hm] at size ⊢
        refine ⟨putEntry_replace hold hb, ?_⟩
        simpa using size
    have order := ok.ascending
    rw [hm] at order
    refine ⟨?_, ?_, fun x hx => ?_⟩
    · rw [State.map_setMap, put.1]; exact put.2
    · rw [State.map_setMap, put.1]; exact ascending_put order hb ha
    · rw [State.map_setMap, put.1] at hx
      rcases List.mem_append.mp hx with hx | hx
      · exact ok.entries x (by rw [hm]; simp [hx])
      · rcases List.mem_cons.mp hx with rfl | hx
        · exact he
        · exact ok.entries x (by rw [hm]; simp [hx])

theorem mapSetBody_carried (s : State) (args : List Byte) : BodyCarried False s (mapSetBody args s) := by
  unfold mapSetBody
  split
  · split
    · rename_i hv _ hd hp ha
      split
      · exact refusedWith_carried False s _
      · rename_i notManagement
        exact s.mapSet_carried _ ⟨addrOfByte_some hv, by simpa using notManagement, addrOfByte_some hd,
          portMaskOf_some hp, accessOf_some ha⟩
    · exact refusedWith_carried False s _
  · exact refusedWith_carried False s _

theorem MapOk.filter {s : State} (ok : MapOk s) (f : RouteEntry → Bool) : MapOk (s.setMap (s.map.filter f)) :=
  ⟨(List.length_filter_le _ _).trans ok.size, ok.ascending.sublist List.filter_sublist,
    fun x hx => ok.entries x (List.mem_of_mem_filter hx)⟩

theorem mapClearBody_carried (s : State) (args : List Byte) : BodyCarried False s (mapClearBody args s) := by
  unfold mapClearBody
  split
  · split
    · exact refusedWith_carried False s _
    · split
      · exact ⟨Carried.setMap s _ fun ok => ok.filter _, fun _ => Nat.zero_le _⟩
      · exact refusedWith_carried False s _
  · exact refusedWith_carried False s _

theorem mapReadBody_carried (k : Prop) (s : State) (args : List Byte) : BodyCarried k s (mapReadBody args s) := by
  unfold mapReadBody
  split
  · split
    · exact refusedWith_carried k s _
    · split
      · exact ⟨.refl k s, fun _ => by simp [mapPayload]⟩
      · exact refusedWith_carried k s _
  · exact refusedWith_carried k s _

/-! ### The commands of the ports -/

theorem statusBody_carried (k : Prop) (s : State) (p : Port) (args : List Byte) : BodyCarried k s (statusBody p args s) := by
  refine ⟨.refl k s, fun _ => ?_⟩
  simp only [statusBody, statusPayload, List.length_append, List.length_cons, List.length_nil, List.length_take,
    length_wordBytes, List.length_map, Port.all, Seg.all]
  omega

theorem portSetBody_carried (k : Prop) (s : State) (p : Port) (args : List Byte) :
    BodyCarried k s (portSetBody p args s) := by
  unfold portSetBody
  split
  · split
    · rename_i hold idle mask hh hi hm
      refine ⟨⟨rfl, rfl, fun _ => rfl, fun ok => ok.congr rfl rfl, fun ok => ?_, fun ok q => ?_, fun ok => ?_, id,
        fun _ ok => ?_⟩, fun _ => by simp [wordBytes]⟩
      · refine ok.congr rfl rfl fun q => ?_
        by_cases e : q = p
        · subst e; simp [State.setAttention]
        · simp [State.setAttention, e]
      · by_cases e : q = p
        · subst e
          obtain ⟨size, numbered, _⟩ := ok q
          have line : LogOk mask { s.log q with attLow := attentionDue mask (s.log q).records } := ⟨size, numbered, rfl⟩
          simpa [State.setAttention] using line
        · simpa [State.setAttention, e] using ok q
      · refine State.forall_port_modPort (P := PortOk) (f := fun c => { c with holdLimit := hold, idleLimit := idle, mask := mask })
          ok fun h => ?_
        exact ⟨portLimitOf_some hh, portLimitOf_some hi, h.holdTaken, h.idleTaken, maskOf_some hm, h.errCount, h.message⟩
      · exact State.forall_port_modPort (P := ReplyOk)
          (f := fun c => { c with holdLimit := hold, idleLimit := idle, mask := mask }) ok id
    · exact refusedWith_carried k s _
  · exact refusedWith_carried k s _

theorem portRestoreBody_carried (k : Prop) (s : State) (args : List Byte) : BodyCarried k s (portRestoreBody args s) := by
  unfold portRestoreBody
  split
  · split
    · exact refusedWith_carried k s _
    · split
      · refine ⟨(Carried.refl k s).modPort _ _ rfl nofun (fun h => ?_) fun _ => id, fun _ => by simp⟩
        exact ⟨h.holdLimit, h.idleLimit, h.holdTaken, h.idleTaken, h.mask, Nat.zero_le _, h.message⟩
      · exact refusedWith_carried k s _
  · exact refusedWith_carried k s _

theorem numberedUpTo_drop (next : Word16) (n : Nat) (rs : List Record) (h : numberedUpTo next rs) :
    numberedUpTo next (rs.drop n) := by
  induction n generalizing rs with
  | zero => exact h
  | succ n ih =>
    match rs, h with
    | [], h => exact h
    | [_], _ => simp [numberedUpTo]
    | _ :: q :: rest, h => exact ih (q :: rest) h.2

theorem Log.dropOldest_ok {mask : Word16} (n : Nat) {l : Log} (h : LogOk mask l) : LogOk mask (l.dropOldest mask n) :=
  ⟨by simp only [Log.dropOldest, List.length_drop]; have := h.size; omega, numberedUpTo_drop _ n _ h.numbered, rfl⟩

theorem length_recordBytes (r : Record) : (recordBytes r).length = 10 := rfl

theorem readCountOf_some {b : Byte} {n : Nat} (h : readCountOf b = some n) : 1 ≤ n ∧ n ≤ 4 := by
  unfold readCountOf at h
  split at h
  · rename_i range
    obtain rfl := Option.some.inj h
    simpa using range
  · contradiction

theorem length_logPayload (rs : List Record) : (logPayload rs).length = 1 + 10 * rs.length := by
  have ten : ∀ r ∈ rs, (recordBytes r).length = 10 := fun r _ => length_recordBytes r
  rw [logPayload, List.length_cons, List.length_flatMap, List.map_congr_left ten, List.map_const', List.sum_replicate]
  simp only [smul_eq_mul]
  omega

theorem logReadBody_carried (k : Prop) (s : State) (p : Port) (args : List Byte) :
    BodyCarried k s (logReadBody p args s) := by
  unfold logReadBody
  split
  · split
    · exact refusedWith_carried k s _
    · rename_i n hn
      refine ⟨Carried.modLog k s p _ (Log.dropOldest_ok n), fun _ => ?_⟩
      have := readCountOf_some hn
      simp only [length_logPayload, List.length_take]
      omega
  · exact refusedWith_carried k s _

/-! ### SWITCH_RESET -/

theorem PortCtx.aborted_ok (setter : AbortSetter) {c : PortCtx} (h : PortOk c) : PortOk (c.aborted setter) :=
  (PortCtx.aborted_kept setter c).ok h

theorem PortCtx.aborted_settings (setter : AbortSetter) (c : PortCtx) :
    (c.aborted setter).mask = c.mask ∧ (c.aborted setter).reply = c.reply :=
  ⟨(PortCtx.aborted_kept setter c).mask, (PortCtx.aborted_kept setter c).reply⟩

theorem PortCtx.countByte_kept (c : PortCtx) : PortKept c c.countByte := by
  constructor <;> simp [PortCtx.countByte]

/-- R70: a switch reset ends a quarantine and clears the error count; the rest of a port's settings it keeps. -/
theorem PortCtx.switchReset_kept (clocked : Bool) (c : PortCtx) :
    PortKept { c with quarantined := false, quarantineHeld := false, errCount := 0, withdrawal := none }
      (c.switchReset clocked) ∧ (c.switchReset clocked).quarantined = false := by
  unfold PortCtx.switchReset
  simp only
  split
  all_goals first
    | exact ⟨.refl _, rfl⟩
    | exact ⟨PortCtx.aborted_kept _ _, PortCtx.aborted_quarantined _ _⟩
    | exact ⟨⟨rfl, rfl, rfl, rfl, rfl, .inl rfl, .inl rfl, .inl rfl, .inl rfl, id⟩, rfl⟩
    | skip
  split
  · exact ⟨(PortCtx.countByte_kept _).trans (PortCtx.aborted_kept _ _), PortCtx.aborted_quarantined _ _⟩
  · exact ⟨PortCtx.aborted_kept _ _, PortCtx.aborted_quarantined _ _⟩

theorem State.switchResetSegment_kept (s : State) (sg : Seg) : Kept s (s.switchResetSegment sg) := by
  unfold State.switchResetSegment
  split
  case h_1 line =>
    refine Kept.modSgc s sg _ ⟨rfl, rfl, rfl, fun ok => ?_⟩
    obtain ⟨h1, h2, h3, h4, h5, h6, h7, h8⟩ := ok
    exact ⟨h1, h2, h3, h4, h5, h6, fun _ => .inl line, by simp⟩
  case h_2 line =>
    refine Kept.modSgc s sg _ ⟨rfl, rfl, rfl, fun ok => ?_⟩
    obtain ⟨h1, h2, h3, h4, h5, h6, h7, h8⟩ := ok
    exact ⟨h1, h2, h3, h4, h5, h6, fun _ => .inr line, by simp [h8, line]⟩
  all_goals
    split
    · exact State.closeSeg_kept s sg
    · exact .refl s

theorem LogOk.reset (mask : Word16) : LogOk mask Log.reset := ⟨Nat.zero_le _, trivial, rfl⟩

theorem resetNoticeLog_ok (mask : Word16) : LogOk mask (resetNoticeLog mask) := Log.enter_ok mask _ (LogOk.reset mask)

/-- Table 9-6, step 5: every log is emptied but for its RESET_NOTICE. -/
theorem Carried.resetNotices (k : Prop) (s : State) :
    Carried k s { s with logs := s.logs.mapAll fun p _ => resetNoticeLog (s.port p).mask } where
  pending := rfl
  straps := rfl
  map _ := rfl
  mapOk ok := ok.congr rfl rfl
  leaseTableOk ok := ok.congr rfl rfl fun _ => id
  logOk _ p := by
    show LogOk (s.port p).mask (PerPort.get _ p)
    rw [PerPort.get_mapAll]
    exact resetNoticeLog_ok _
  portOk ok := ok
  sgcOk ok := ok
  replyOk _ ok := ok

/-- Table 9-6, steps 1 to 3: claims, ports and leases. -/
theorem Carried.resetPorts (k : Prop) (s : State) (clocked : List Port) :
    Carried k s { s.removeClaims with
      ports := s.removeClaims.ports.mapAll fun q c => c.switchReset (clocked.contains q), leases := [], nextLeaseId := 1 } := by
  have port : ∀ q, (s.removeClaims.ports.mapAll fun q c => c.switchReset (clocked.contains q)).get q =
      (s.port q).switchReset (clocked.contains q) := by
    intro q
    rw [PerPort.get_mapAll]
    rfl
  refine ⟨rfl, rfl, fun _ => rfl, fun ok => ok.congr rfl rfl, fun _ => ?_, fun ok q => ?_, fun ok q => ?_, id,
    fun _ ok q => ?_⟩
  · exact ⟨Nat.zero_le _, fun _ => Nat.zero_le _, .nil, .nil, nofun, (by decide : (1 : Byte) ≠ 0), fun _ _ => rfl⟩
  · show LogOk (PortCtx.mask (PerPort.get _ q)) (s.log q)
    rw [port, (PortCtx.switchReset_kept _ _).1.mask]
    exact ok q
  · show PortOk (PerPort.get _ q)
    rw [port]
    refine (PortCtx.switchReset_kept _ _).1.ok ?_
    obtain ⟨h1, h2, h3, h4, h5, h6, h7⟩ := ok q
    exact ⟨h1, h2, h3, h4, h5, Nat.zero_le _, h7⟩
  · show ReplyOk (PerPort.get _ q)
    rw [port, ReplyOk, (PortCtx.switchReset_kept _ _).1.reply]
    exact ok q

theorem State.switchReset_carried (k : Prop) (s : State) (clocked : List Port) : Carried k s (s.switchReset clocked) :=
  ((Carried.resetPorts k s clocked).trans
    (((Kept.foldl _ State.switchResetSegment_kept _ _).trans (Kept.foldl _ State.portReleased_kept _ _)).carried k)).trans
    (Carried.resetNotices k _)

/-! ### The segment commands -/

theorem segmentSetBody_carried (k : Prop) (s : State) (args : List Byte) : BodyCarried k s (segmentSetBody args s) := by
  unfold segmentSetBody
  split
  · split
    · rename_i hl hf
      split
      · exact refusedWith_carried k s _
      · refine ⟨Carried.modSgc k s _ _ fun ok => ?_, fun _ => Nat.zero_le _⟩
        obtain ⟨h1, h2, h3, h4, h5, h6, h7, h8⟩ := ok
        exact ⟨h1, h2, h3, h4, h5, stuckLimitOf_some hl, h7, h8⟩
    · exact refusedWith_carried k s _
  · exact refusedWith_carried k s _

theorem State.startRecovery_kept (s : State) (p : Port) (sg : Seg) : Kept s (s.startRecovery p sg) := by
  refine (Kept.modSgc s sg _ ⟨rfl, rfl, rfl, fun ok => ?_⟩).trans (State.conditionLeft_kept _ _)
  obtain ⟨h1, h2, h3, h4, h5, h6, h7, h8⟩ := ok
  exact ⟨nofun, nofun, nofun, h4, h5, h6, nofun, rfl⟩

theorem segmentRecoverBody_carried (k : Prop) (s : State) (p : Port) (args : List Byte) :
    BodyCarried k s (segmentRecoverBody p args s) := by
  unfold segmentRecoverBody
  split
  · split
    · exact refusedWith_carried k s _
    · split
      · exact refusedWith_carried k s _
      · exact ⟨(s.startRecovery_kept p _).carried k, fun _ => Nat.zero_le _⟩
  · exact refusedWith_carried k s _

end Sys2Proof.Machine
end

section
/-! What the commands from the buses and the timers carry over; then one statement for every command, and the invariants
of R22 to R25, R100, R141, R149, R159 and Tables 3-1 and 4-1 settled with it. -/

namespace Sys2Proof.Machine

/-! ### The commands from a segment -/

/-- What a transaction never touches of a port, and what it rarely does: its settings, its reply, what the Engine has in
hand, the error count, the limits taken. -/
def PortCtx.settings (c : PortCtx) : Byte × Byte × Word16 × Reply × Option Message × Message × Nat × Byte × Byte × Bool :=
  (c.holdLimit, c.idleLimit, c.mask, c.reply, c.handed, c.message, c.errCount, c.hold.limit, c.idle.limit, c.quarantined)

theorem PortKept.of_settings {c d : PortCtx} (h : d.settings = c.settings) :
    PortKept c d ∧ d.quarantined = c.quarantined := by
  simp only [PortCtx.settings, Prod.mk.injEq] at h
  obtain ⟨h1, h2, h3, h4, h5, h6, h7, h8, h9, h10⟩ := h
  exact ⟨⟨h1, h2, h3, h4, h5, .inl h6, .inl h7, .inl h8, .inl h9, fun h => h10.trans h⟩, h10⟩

theorem State.startFormed_kept (s : State) (sg : Seg) :
    Kept s (if (s.sgc sg).line == .busWait && !(s.sgc sg).busBusy then s.modSgc sg Sgc.formStart else s) := by
  split
  · rename_i h
    simp only [Bool.and_eq_true, beq_iff_eq] at h
    exact Kept.modSgc s sg _ (Sgc.formStart_kept _ (.inr h.1))
  · exact .refl s

/-- A controller whose line state a condition changed: its settings and its limits are not touched. -/
theorem SgcKept.ofLine {c d : Sgc} (hr : d.pendingRate = c.pendingRate) (hp : d.pendingStuck = c.pendingStuck)
    (hf : d.broadcastFlag = c.broadcastFlag) (ha : d.activeStuck = c.activeStuck)
    (hn : SgcOk c → d.retry ≤ Config.retryLimit)
    (h : SgcOk c → (d.line = .foreign → d.busBusy = true) ∧ (d.line = .idle → d.busBusy = false) ∧
      (d.line.master = true → d.busBusy = false) ∧ (d.freeCheck = true → d.line = .recovery ∨ d.line = .faulted) ∧
      d.origin.isSome = (d.line == .recovery && !d.freeCheck)) : SgcKept c d := by
  refine ⟨hr, hp, hf, fun ok => ?_⟩
  obtain ⟨h1, h2, h3, h4, h5⟩ := h ok
  exact ⟨h1, h2, h3, hn ok, ha ▸ ok.active, hp ▸ ok.pending, h4, h5⟩

/-- Outside RECOVERY and FAULTED no recovery runs and no bus-free check of a switch reset. -/
theorem SgcOk.quiet {c : Sgc} (ok : SgcOk c) (h1 : c.line ≠ .recovery) (h2 : c.line ≠ .faulted) :
    c.freeCheck = false ∧ c.origin.isSome = false := by
  refine ⟨Bool.eq_false_iff.mpr fun e => (ok.freeCheck e).elim h1 h2, ?_⟩
  rw [ok.origin, beq_false_of_ne h1, Bool.false_and]

/-- A change of line state outside RECOVERY and FAULTED, bus busy set as the new line state has it. -/
theorem SgcKept.relined {c d : Sgc} (h1 : c.line ≠ .recovery) (h2 : c.line ≠ .faulted) (hr : d.pendingRate = c.pendingRate)
    (hp : d.pendingStuck = c.pendingStuck) (hf : d.broadcastFlag = c.broadcastFlag) (ha : d.activeStuck = c.activeStuck)
    (hn : SgcOk c → d.retry ≤ Config.retryLimit) (hk : d.freeCheck = c.freeCheck) (ho : d.origin = c.origin)
    (g1 : d.line ≠ .recovery) (hb : SgcOk c → (d.line = .foreign → d.busBusy = true) ∧ (d.line = .idle → d.busBusy = false) ∧
      (d.line.master = true → d.busBusy = false)) : SgcKept c d := by
  refine SgcKept.ofLine hr hp hf ha hn fun ok => ?_
  obtain ⟨check, noOrigin⟩ := ok.quiet h1 h2
  obtain ⟨b1, b2, b3⟩ := hb ok
  refine ⟨b1, b2, b3, fun e => ?_, ?_⟩
  · rw [hk, check] at e
    contradiction
  · rw [ho, noOrigin, beq_false_of_ne g1, Bool.false_and]

theorem Sgc.busError_kept (seen : BusCondition) (c : Sgc) (h1 : c.line ≠ .recovery) (h2 : c.line ≠ .faulted) :
    SgcKept c (c.busError seen) := by
  cases seen <;> exact SgcKept.relined h1 h2 rfl rfl rfl rfl SgcOk.retry rfl rfl nofun
    fun _ => ⟨by simp [Sgc.busError], by simp [Sgc.busError], by simp [Sgc.busError, LineState.master]⟩

theorem Sgc.lostBus_kept (c : Sgc) (h1 : c.line ≠ .recovery) (h2 : c.line ≠ .faulted) : SgcKept c c.lostBus :=
  SgcKept.relined h1 h2 rfl rfl rfl rfl SgcOk.retry rfl rfl nofun
    fun _ => ⟨by simp [Sgc.lostBus], by simp [Sgc.lostBus], by simp [Sgc.lostBus, LineState.master]⟩

/-- A cause that ends a controller's work where it is not in RECOVERY nor FAULTED. -/
theorem State.busError_kept (s : State) (sg : Seg) (seen : BusCondition) (h1 : (s.sgc sg).line ≠ .recovery)
    (h2 : (s.sgc sg).line ≠ .faulted) : Kept s (s.endWithCause sg .downstreamError (Sgc.busError seen)) :=
  State.endWithCause_kept s sg _ _ fun _ e => e ▸ Sgc.busError_kept seen _ h1 h2

theorem State.lostBus_kept (s : State) (sg : Seg) (cause : AbortCause) (h1 : (s.sgc sg).line ≠ .recovery)
    (h2 : (s.sgc sg).line ≠ .faulted) : Kept s (s.endWithCause sg cause Sgc.lostBus) :=
  State.endWithCause_kept s sg _ _ fun _ e => e ▸ Sgc.lostBus_kept _ h1 h2

/-- Bus busy follows a condition in BUS_WAIT, RECOVERY and FAULTED, where the line state says nothing of it. -/
theorem State.setBusy_kept (s : State) (sg : Seg) (b : Bool) (h : (s.sgc sg).line = .foreign → b = true)
    (h2 : (s.sgc sg).line ≠ .idle) (h3 : (s.sgc sg).line.master = false) :
    Kept s (s.modSgc sg fun c => { c with busBusy := b }) := by
  refine Kept.modSgc s sg _ (SgcKept.ofLine rfl rfl rfl rfl SgcOk.retry fun ok => ⟨h, fun e => absurd e h2, fun e => ?_,
    ok.freeCheck, ok.origin⟩)
  rw [h3] at e
  contradiction

theorem State.conditionSeen_kept (s : State) (sg : Seg) (seen : BusCondition) : Kept s (s.conditionSeen sg seen) := by
  unfold State.conditionSeen
  split <;> rename_i line
  case h_1 =>
    exact Kept.modSgc s sg _ (SgcKept.relined (by simp [line]) (by simp [line]) rfl rfl rfl rfl SgcOk.retry rfl rfl nofun
      fun _ => ⟨fun _ => rfl, nofun, nofun⟩)
  case h_2 => exact .refl s
  case h_3 => exact s.setBusy_kept sg true (fun _ => rfl) (by simp [line]) (by simp [line, LineState.master])
  case h_4 =>
    exact Kept.modSgc s sg _ (SgcKept.relined (by simp [line]) (by simp [line]) rfl rfl rfl rfl SgcOk.retry rfl rfl nofun
      fun _ => ⟨nofun, fun _ => rfl, nofun⟩)
  case h_5 => exact s.setBusy_kept sg true (fun _ => rfl) (by simp [line]) (by simp [line, LineState.master])
  case h_6 =>
    have busy := s.setBusy_kept sg false (by simp [line]) (by simp [line]) (by simp [line, LineState.master])
    have formed := Kept.modSgc (s.modSgc sg fun c => { c with busBusy := false }) sg Sgc.formStart
      (Sgc.formStart_kept _ (.inr (by simp [line])))
    rw [State.modSgc_modSgc] at formed
    rw [← State.modSgc_modSgc s sg (fun c => { c with busBusy := false }) Sgc.formStart] at formed ⊢
    exact busy.trans formed
  case h_11 => exact .refl s
  case h_12 => exact .refl s
  case h_13 => exact s.setBusy_kept sg true (fun _ => rfl) (by simp [line]) (by simp [line, LineState.master])
  case h_14 => exact s.setBusy_kept sg false (by simp [line]) (by simp [line]) (by simp [line, LineState.master])
  case h_15 => exact s.setBusy_kept sg true (fun _ => rfl) (by simp [line]) (by simp [line, LineState.master])
  case h_16 => exact s.setBusy_kept sg false (by simp [line]) (by simp [line]) (by simp [line, LineState.master])
  all_goals exact s.busError_kept sg _ (by simp [line]) (by simp [line])

theorem State.arbitrationLoss_kept (s : State) (sg : Seg) (point : LossPoint) : Kept s (s.arbitrationLoss sg point) := by
  unfold State.arbitrationLoss
  simp only
  split <;> rename_i line <;> try exact .refl s
  · split
    · exact s.lostBus_kept sg _ (by simp [line]) (by simp [line])
    · exact .refl s
  · split
    · exact s.lostBus_kept sg _ (by simp [line]) (by simp [line])
    · rename_i again
      simp only [Bool.or_eq_true, decide_eq_true_eq, not_or, not_le] at again
      refine Kept.modSgc s sg _ (SgcKept.relined (by simp [line]) (by simp [line]) rfl rfl rfl rfl (fun _ => again.2) rfl
        rfl nofun fun _ => ⟨nofun, nofun, nofun⟩)
  · exact s.lostBus_kept sg _ (by simp [line]) (by simp [line])
  all_goals
    split
    · exact s.lostBus_kept sg _ (by simp [line]) (by simp [line])
    · exact .refl s

/-- R87, R88: a line is found stuck only where the part is master or waits for its lines. -/
theorem Sgc.stuckApplies_line {c : Sgc} (h : c.stuckSclApplies = true ∨ c.stuckSdaApplies = true) :
    c.line ≠ .recovery ∧ c.line ≠ .faulted := by
  unfold Sgc.stuckSclApplies Sgc.stuckSdaApplies at h
  constructor <;> intro e <;> simp [e] at h

theorem State.stuck_kept (s : State) (sg : Seg) (line : BusLine) : Kept s (s.stuck sg line) := by
  cases line <;> unfold State.stuck <;> simp only <;> split
  · rename_i applies
    have away := Sgc.stuckApplies_line (.inl applies)
    exact s.stuckDetected_kept sg .scl away.1 away.2
  · exact .refl s
  · rename_i applies
    have away := Sgc.stuckApplies_line (.inr applies)
    exact s.stuckDetected_kept sg .sda away.1 away.2
  · exact .refl s

/-- R78 to R80: a line state of a master, taken from another. -/
theorem SgcKept.master {c d : Sgc} (hc : c.line.master = true) (hl : d.line.master = true) (hb : d.busBusy = c.busBusy)
    (hr : d.retry = c.retry) (ha : d.activeStuck = c.activeStuck) (hp : d.pendingStuck = c.pendingStuck)
    (hq : d.pendingRate = c.pendingRate) (hf : d.broadcastFlag = c.broadcastFlag) (hk : d.freeCheck = c.freeCheck)
    (ho : d.origin = c.origin) : SgcKept c d :=
  Sgc.masterLine_kept c d d.line hc hl rfl hb hr ha hp hq hf hk ho

theorem Sgc.addressDone_kept (a : AckBit) (c : Sgc) (h : c.line = .address) : SgcKept c (c.addressDone a) := by
  have hc : c.line.master = true := by rw [h]; rfl
  unfold Sgc.addressDone
  simp only
  split
  · split
    · exact .master hc rfl rfl rfl rfl rfl rfl rfl rfl rfl
    · split <;> exact .master hc rfl rfl rfl rfl rfl rfl rfl rfl rfl
  · split <;> exact .master hc rfl rfl rfl rfl rfl rfl rfl rfl rfl

theorem PortCtx.relayAddress_kept (a : AckBit) (reads : Bool) (c : PortCtx) :
    PortKept c (c.relayAddress a reads) ∧ (c.relayAddress a reads).quarantined = c.quarantined := by
  cases a <;> cases reads <;> exact ⟨⟨rfl, rfl, rfl, rfl, rfl, .inl rfl, .inl rfl, .inl rfl, .inl rfl, id⟩, rfl⟩

theorem State.addressAcked_kept (s : State) (sg : Seg) (a : AckBit) : Kept s (s.addressAcked sg a) := by
  unfold State.addressAcked
  simp only
  split
  · exact .refl s
  · rename_i line
    have sent := Kept.modSgc s sg (Sgc.addressDone a) (Sgc.addressDone_kept a _ (by simpa using line))
    split
    · split
      · exact sent
      · unfold State.takeAddressResult
        split
        · exact sent.trans (Kept.modPort _ _ _ (PortCtx.relayAddress_kept _ _ _).1 (PortCtx.relayAddress_kept _ _ _).2)
        · split
          · exact sent.trans (State.collect_kept _ _)
          · exact sent.trans (State.dropNacked_kept _ _ _)
    · exact sent

theorem Sgc.byteDone_kept (c : Sgc) (h : c.line = .write) : SgcKept c c.byteDone := by
  have hc : c.line.master = true := by rw [h]; rfl
  refine .master hc ?_ rfl rfl rfl rfl rfl rfl rfl rfl
  unfold Sgc.byteDone
  cases c.closing <;> rfl

theorem PortCtx.relayByte_kept (a : AckBit) (c : PortCtx) :
    PortKept c (c.relayByte a) ∧ (c.relayByte a).quarantined = c.quarantined := by
  cases a <;> exact ⟨⟨rfl, rfl, rfl, rfl, rfl, .inl rfl, .inl rfl, .inl rfl, .inl rfl, id⟩, rfl⟩

theorem State.byteAcked_kept (s : State) (sg : Seg) (a : AckBit) : Kept s (s.byteAcked sg a) := by
  unfold State.byteAcked
  simp only
  split
  · exact .refl s
  · rename_i line
    have sent := Kept.modSgc s sg Sgc.byteDone (Sgc.byteDone_kept _ (by simpa using line))
    split
    · split
      · exact sent
      · unfold State.takeByteResult
        split
        · exact sent.trans (Kept.modPort _ _ _ (PortCtx.relayByte_kept _ _).1 (PortCtx.relayByte_kept _ _).2)
        · split
          · exact sent.trans (State.collect_kept _ _)
          · exact sent.trans (State.dropNacked_kept _ _ _)
    · exact sent

theorem State.readByte_kept (s : State) (sg : Seg) (b : Byte) : Kept s (s.readByte sg b) := by
  unfold State.readByte
  simp only
  split
  · exact .refl s
  · rename_i line
    have hc : (s.sgc sg).line.master = true := by
      rw [show (s.sgc sg).line = .read by simpa using line]; rfl
    split
    · exact Kept.modSgc s sg _ (.master hc rfl rfl rfl rfl rfl rfl rfl rfl rfl)
    · have held : Kept s (s.modSgc sg fun x => { x with line := .ackHold }) :=
        Kept.modSgc s sg _ (.master hc rfl rfl rfl rfl rfl rfl rfl rfl rfl)
      split
      · exact held.trans (Kept.modPort _ _ _ ⟨rfl, rfl, rfl, rfl, rfl, .inl rfl, .inl rfl, .inl rfl, .inl rfl, id⟩ rfl)
      · exact held

theorem Sgc.recovered_kept (c : Sgc) : SgcKept c c.recovered :=
  .ofLine rfl rfl rfl rfl SgcOk.retry fun _ => ⟨nofun, fun _ => rfl, nofun, nofun, rfl⟩

theorem State.recoverySucceeds_kept (s : State) (sg : Seg) : Kept s (s.recoverySucceeds sg) := by
  unfold State.recoverySucceeds
  split
  · exact Kept.modSgc s sg _ (Sgc.recovered_kept _)
  · exact (Kept.modSgc s sg _ (Sgc.recovered_kept _)).trans (State.writeRecord_kept _ _ _)
  · exact .refl s

theorem State.faultRecords_kept (s : State) (sg : Seg) (line : BusLine) (origin : RecoveryOrigin) :
    Kept s (s.faultRecords sg line origin) := by
  unfold State.faultRecords
  cases origin <;>
    exact (State.writeRecord_kept _ _ _).trans (Kept.foldl _ (fun t p => State.writeRecord_kept t p _) _ _)

theorem State.recoveryFails_kept (s : State) (sg : Seg) (line : BusLine) : Kept s (s.recoveryFails sg line) := by
  unfold State.recoveryFails
  split
  · refine ((Kept.modSgc s sg _ ?_).trans (State.conditionLeft_kept _ _)).trans (State.faultRecords_kept _ _ _ _)
    exact .ofLine rfl rfl rfl rfl SgcOk.retry fun _ => ⟨nofun, nofun, nofun, fun _ => .inr rfl, rfl⟩
  · exact .refl s

theorem Sgc.busFree_kept (c : Sgc) : SgcKept c c.busFree := by
  unfold Sgc.busFree
  split <;> rename_i line
  · exact .relined (by simp [line]) (by simp [line]) rfl rfl rfl rfl SgcOk.retry rfl rfl nofun
      fun _ => ⟨nofun, fun _ => rfl, nofun⟩
  · split
    · refine SgcKept.trans (d := { c with busBusy := false }) ?_ (Sgc.formStart_kept _ (.inr line))
      exact .relined (by simp [line]) (by simp [line]) rfl rfl rfl rfl SgcOk.retry rfl rfl (by simp [line])
        fun _ => ⟨by simp [line], by simp [line], by simp [line, LineState.master]⟩
    · exact .refl c
  · split
    · rename_i check
      exact .ofLine rfl rfl rfl rfl SgcOk.retry fun ok =>
        ⟨nofun, fun _ => rfl, nofun, nofun, by have := ok.origin; rw [check, Bool.not_true, Bool.and_false] at this; exact this⟩
    · exact .refl c
  · split
    · rename_i check
      exact .ofLine rfl rfl rfl rfl SgcOk.retry fun ok =>
        ⟨nofun, fun _ => rfl, nofun, nofun, by have := ok.origin; rw [check, Bool.not_true, Bool.and_false] at this; exact this⟩
    · exact .refl c
  all_goals exact .refl c

theorem State.stopDone_kept (s : State) (sg : Seg) :
    Kept s (if (s.sgc sg).line == .stopping then (s.modSgc sg fun c => { c with line := .idle }).releaseSeg sg none
      else s) := by
  split
  · rename_i line
    have line : (s.sgc sg).line = .stopping := by simpa using line
    refine (Kept.modSgc s sg _ ?_).trans (State.releaseSeg_kept _ _ _)
    exact .relined (by simp [line]) (by simp [line]) rfl rfl rfl rfl SgcOk.retry rfl rfl nofun
      fun ok => ⟨nofun, fun _ => ok.master (by rw [line]; rfl), nofun⟩
  · exact .refl s

/-! ### The commands from an upstream bus -/

/-- An update of a port that leaves its settings. -/
theorem Kept.modPort_face (s : State) (p : Port) (f : PortCtx → PortCtx) (h : (f (s.port p)).settings = (s.port p).settings) :
    Kept s (s.modPort p f) := Kept.modPort s p f (PortKept.of_settings h).1 (PortKept.of_settings h).2

theorem State.holdForRelease_kept (s : State) (p : Port) (b : AddrByte) : Kept s (s.holdForRelease p b) :=
  (Kept.modPort_face s p _ rfl).trans (State.closeAll_kept _ _)

theorem Sgc.repeatStart_kept (d : Dest) (dir : Dir) (c : Sgc) : SgcKept c (c.repeatStart d dir) := by
  unfold Sgc.repeatStart
  split
  · rename_i line
    have line : c.line = .parked := by simpa using line
    exact .relined (by simp [line]) (by simp [line]) rfl rfl rfl rfl (fun _ => Nat.zero_le _) rfl rfl nofun
      fun ok => ⟨nofun, nofun, fun _ => ok.master (by rw [line]; rfl)⟩
  · exact .refl c

theorem State.repeatedStart_kept (s : State) (p : Port) (b : AddrByte) : Kept s (s.repeatedStart p b) := by
  have taken : Kept s (s.modPort p PortCtx.takeLimits) := Kept.modPort s p _ (PortCtx.takeLimits_kept _) rfl
  unfold State.repeatedStart
  simp only
  split
  · exact taken.trans ((Kept.modPort_face _ p _ rfl).trans
      (Kept.modSgc _ _ _ (Sgc.repeatStart_kept _ _ _)))
  · exact taken.trans (State.holdForRelease_kept _ _ _)

theorem State.resolveOrHold_kept (s : State) (p : Port) (b : AddrByte) : Kept s (s.resolveOrHold p b) := by
  unfold State.resolveOrHold
  split
  · exact Kept.modPort_face s p _ rfl
  · exact State.resolve_kept _ _ _

theorem PortCtx.endWrite_carried (k : Prop) (s : State) (p : Port) (seen : BusCondition) :
    Carried k s (s.modPort p (PortCtx.endWrite seen)) := by
  refine (Carried.refl k s).modPort p _ ?_ ?_ (fun ok => ?_) fun _ ok => ?_
  all_goals unfold PortCtx.endWrite; split
  all_goals first
    | rfl
    | exact id
    | exact ok
    | exact ⟨ok.holdLimit, ok.idleLimit, ok.holdTaken, ok.idleTaken, ok.mask, ok.errCount, ok.message⟩
    | exact ⟨ok.holdLimit, ok.idleLimit, ok.holdTaken, ok.idleTaken, ok.mask, ok.errCount, Nat.zero_le _⟩

theorem State.addressByte_carried (k : Prop) (s : State) (p : Port) (b : AddrByte) : Carried k s (s.addressByte p b) := by
  unfold State.addressByte
  simp only
  split
  · exact .refl k s
  · split
    case h_1 => exact (s.resolveOrHold_kept p b).carried k
    case h_2 => exact (PortCtx.endWrite_carried k s p _).trans ((State.resolveOrHold_kept _ p b).carried k)
    case h_3 => exact (s.resolve_kept p b).carried k
    case h_4 => exact (s.resolve_kept p b).carried k
    case h_5 => exact (s.repeatedStart_kept p b).carried k
    case h_6 => exact (s.repeatedStart_kept p b).carried k
    case h_7 => exact (Kept.modPort_face s p _ rfl).carried k
    all_goals exact .refl k s

theorem Sgc.sendByte_kept (b : Byte) (c : Sgc) : SgcKept c (c.sendByte b) := by
  unfold Sgc.sendByte
  split
  · rename_i h
    simp only [Bool.and_eq_true, beq_iff_eq] at h
    exact .master (by rw [h.1]; rfl) rfl rfl rfl rfl rfl rfl rfl rfl rfl
  · exact .refl c

theorem State.dataByte_kept (s : State) (p : Port) (b : Byte) : Kept s (s.dataByte p b) := by
  have face : ∀ f : PortCtx → PortCtx, (f (s.port p)).settings = (s.port p).settings → Kept s (s.modPort p f) := Kept.modPort_face s p
  unfold State.dataByte
  simp only
  split
  · exact .refl s
  · split
    case h_1 =>
      exact (face _ rfl).trans
        (Kept.foldl _ (fun t sg => Kept.modSgc t sg _ (Sgc.sendByte_kept b _)) _ _)
    case h_2 => exact face _ rfl
    case h_3 => exact face _ rfl
    case h_4 => exact face _ rfl
    all_goals exact .refl s

theorem Sgc.giveAck_kept (a : AckBit) (c : Sgc) : SgcKept c (c.giveAck a) := by
  unfold Sgc.giveAck
  split
  · rename_i line
    exact .master (by rw [line]; rfl) rfl rfl rfl rfl rfl rfl rfl rfl rfl
  · rename_i line
    exact .master (by rw [line]; rfl) rfl rfl rfl rfl rfl rfl rfl rfl rfl
  · exact .refl c

theorem State.masterAcknowledge_kept (s : State) (p : Port) (a : AckBit) : Kept s (s.masterAcknowledge p a) := by
  unfold State.masterAcknowledge
  simp only
  split
  · exact .refl s
  · have given : Kept s ((s.ownedBy p).foldl (fun t sg => t.modSgc sg (Sgc.giveAck a)) s) :=
      Kept.foldl _ (fun t sg => Kept.modSgc t sg _ (Sgc.giveAck_kept a _)) _ _
    split <;> exact given.trans (Kept.modPort_face _ p _ rfl)

theorem State.upstreamStop_carried (k : Prop) (s : State) (p : Port) : Carried k s (s.upstreamStop p) := by
  have face : ∀ f : PortCtx → PortCtx, (f (s.port p)).settings = (s.port p).settings → Carried k s (s.modPort p f) :=
    fun f h => (Kept.modPort_face s p f h).carried k
  have ended : Carried k s (s.stopTransaction p) :=
    (face _ rfl).trans ((State.closeAll_kept _ _).carried k)
  unfold State.upstreamStop
  simp only
  split
  · exact .refl k s
  · split
    case h_1 => exact .refl k s
    case h_2 => exact PortCtx.endWrite_carried k s p _
    case h_3 => exact face _ rfl
    case h_4 => exact face _ rfl
    case h_5 => exact ended
    case h_6 => exact ended
    case h_7 => exact face _ rfl
    all_goals exact .refl k s

/-- R68: the error count stays in its range. -/
theorem PortCtx.countError_ok {c : PortCtx} (ok : PortOk c) : PortOk c.countError := by
  refine ⟨ok.holdLimit, ok.idleLimit, ok.holdTaken, ok.idleTaken, ok.mask, ?_, ok.message⟩
  have := ok.errCount
  unfold PortCtx.countError
  simp only
  split <;> omega

theorem State.quarantineCheck_kept (s : State) (p : Port) (before : Nat) : Kept s (s.quarantineCheck p before) := by
  unfold State.quarantineCheck
  split
  · split
    · exact s.enterQuarantine_kept p
    · exact Kept.modPort_face s p _ rfl
  · exact .refl s

theorem PortCtx.settings_countIfClocked (pos : BitPosition) (c : PortCtx) :
    (c.countIfClocked pos).settings = c.settings := by
  unfold PortCtx.countIfClocked
  split <;> rfl

theorem State.errorAborts_carried (k : Prop) (s : State) (p : Port) (seen : BusCondition) (pos : BitPosition) :
    Carried k s (s.errorAborts p seen pos) := by
  have counted : Carried k s (s.modPort p fun c => (c.countIfClocked pos).countError) := by
    have kept := PortKept.of_settings (PortCtx.settings_countIfClocked pos (s.port p))
    refine (Carried.refl k s).modPort p _ kept.1.mask (fun h => kept.2 ▸ h)
      (fun ok => PortCtx.countError_ok (kept.1.ok ok)) fun _ ok => ?_
    show (PortCtx.countIfClocked pos (s.port p)).reply.payload.length ≤ 56
    rw [kept.1.reply]
    exact ok
  unfold State.errorAborts
  simp only
  refine (counted.trans (((State.abortPort_kept _ p .upstreamError).trans
    (State.quarantineCheck_kept _ p (s.port p).errCount)).carried k)).trans ?_
  cases seen
  · exact (State.closeAll_kept _ p).carried k
  · exact ((Kept.modPort_face _ p _ rfl).trans
      (State.closeAll_kept _ p)).carried k

theorem State.errorCounts_carried (k : Prop) (s : State) (p : Port) (f : PortCtx → PortCtx)
    (hf : ∀ c, PortKept c (f c) ∧ (f c).quarantined = c.quarantined) : Carried k s (s.errorCounts p f) :=
  ((Carried.refl k s).modPort p PortCtx.countError rfl id PortCtx.countError_ok fun _ => id).trans
    (((State.quarantineCheck_kept _ p _).trans (Kept.modPort _ p f (hf _).1 (hf _).2)).carried k)

theorem PortCtx.cutManagement_kept (seen : BusCondition) (c : PortCtx) :
    PortKept c (c.cutManagement seen) ∧ (c.cutManagement seen).quarantined = c.quarantined := by
  cases seen <;> exact ⟨⟨rfl, rfl, rfl, rfl, rfl, .inr rfl, .inl rfl, .inl rfl, .inl rfl, id⟩, rfl⟩

theorem State.upstreamBusError_carried (k : Prop) (s : State) (p : Port) (seen : BusCondition) (pos : BitPosition) :
    Carried k s (s.upstreamBusError p seen pos) := by
  unfold State.upstreamBusError
  simp only
  split
  · exact .refl k s
  · split
    case h_1 => exact s.errorAborts_carried k p seen pos
    case h_2 => exact s.errorAborts_carried k p seen pos
    case h_3 => exact s.errorAborts_carried k p seen pos
    case h_4 => exact s.errorCounts_carried k p _ (PortCtx.cutManagement_kept seen)
    case h_5 => exact s.errorCounts_carried k p _ (PortCtx.cutManagement_kept seen)
    case h_6 => exact s.errorCounts_carried k p _ fun _ => PortKept.of_settings rfl
    case h_7 => exact s.errorCounts_carried k p _ fun _ => PortKept.of_settings rfl
    all_goals exact .refl k s

theorem PortCtx.storeByte_ok (b : Byte) {c : PortCtx} (ok : PortOk c) : PortOk (c.storeByte b) := by
  unfold PortCtx.storeByte
  split
  · rename_i room
    exact ⟨ok.holdLimit, ok.idleLimit, ok.holdTaken, ok.idleTaken, ok.mask, ok.errCount, by
      simp only [List.length_append, List.length_cons, List.length_nil]; omega⟩
  · exact ⟨ok.holdLimit, ok.idleLimit, ok.holdTaken, ok.idleTaken, ok.mask, ok.errCount, ok.message⟩

theorem PortCtx.storeByte_carried (k : Prop) (s : State) (p : Port) (b : Byte) :
    Carried k s (s.modPort p (PortCtx.storeByte b)) := by
  refine (Carried.refl k s).modPort p _ ?_ ?_ (PortCtx.storeByte_ok b) fun _ ok => ?_
  all_goals unfold PortCtx.storeByte; split
  all_goals first
    | rfl
    | exact id
    | exact ok

theorem PortCtx.settings_readNext (a : AckBit) (c : PortCtx) : (c.readNext a).settings = c.settings := by
  unfold PortCtx.readNext
  split <;> rfl

/-! ### The timers -/

theorem State.ownerIdleExpiry_kept (s : State) (p : Port) (pos : BitPosition) : Kept s (s.ownerIdleExpiry p pos) := by
  unfold State.ownerIdleExpiry
  split
  · exact .refl s
  · exact ((Kept.modPort_face s p _ (PortCtx.settings_countIfClocked pos _)).trans (State.abortPort_kept _ p _)).trans
      (State.closeAll_kept _ p)

theorem Lease.countDown_ok {l : Lease} (ok : LeaseOk l) : LeaseOk l.countDown := by
  obtain ⟨id, target, ⟨low, high⟩, due⟩ := ok
  unfold Lease.countDown
  split
  · rename_i last
    exact ⟨id, target, ⟨low, high⟩, fun _ => by simp only; omega⟩
  · rename_i more
    have one : (1 : Word16).toNat = 1 := rfl
    have less : (l.remaining - 1).toNat = l.remaining.toNat - 1 := by
      rw [BitVec.toNat_sub, one]
      have := l.remaining.isLt
      omega
    exact ⟨id, target, by simp only [less]; omega, fun e => absurd (due e) (by omega)⟩

theorem Lease.countDown_keeps (l : Lease) : l.countDown.id = l.id ∧ l.countDown.holder = l.holder ∧
    l.countDown.seg = l.seg ∧ l.countDown.target = l.target := by
  unfold Lease.countDown
  split <;> exact ⟨rfl, rfl, rfl, rfl⟩

theorem State.millisecond_carried (k : Prop) (s : State) : Carried k s s.millisecond :=
  ((Kept.foldl _ State.expireLease_kept _ _).carried k).trans <| Carried.setLeases k _ _ fun ok =>
    ok.mapTimes (fun l => (Lease.countDown_keeps l).1) (fun l => (Lease.countDown_keeps l).2.1)
      (fun l => (Lease.countDown_keeps l).2.2.1) (fun l => (Lease.countDown_keeps l).2.2.2) fun _ => Lease.countDown_ok

/-! ### Every command -/

/-- The commands that may change the route map, beside DEVICE_RESET (R107, R112). -/
def editsMap : Instr → Bool
  | .mapSet _ _ | .mapClear _ _ => true
  | _ => false

/-- A row that samples the lines and then acts. -/
theorem Carried.sampled {k : Prop} {s t : State} {low : List Seg} (h : Carried k (s.sampleLines low) t) : Carried k s t :=
  (s.sampleLines_carried low k).trans h

/-- An edit of the map is not held to keep it. -/
theorem Carried.editing {k : Prop} {s t : State} (hk : ¬ k) (h : Carried False s t) : Carried k s t :=
  { h with map := fun m => absurd m hk }

theorem exec_byteOutcome_kept (t : State) (sg : Seg) (line : LineState) (r : ByteOutcome) (acked : AckBit → State)
    (h : ∀ a, Kept t (acked a)) :
    Kept t (match r with
      | .ack => acked .ack
      | .nack => acked .nack
      | .lost => if (t.sgc sg).line == line then t.arbitrationLoss sg .bit else t
      | .stuck l => if (t.sgc sg).line == line then t.stuck sg l else t
      | .busError seen => if (t.sgc sg).line == line then t.conditionSeen sg seen else t) := by
  cases r
  case ack => exact h .ack
  case nack => exact h .nack
  case lost => simp only; split; exacts [t.arbitrationLoss_kept sg _, .refl t]
  case stuck l => simp only; split; exacts [t.stuck_kept sg l, .refl t]
  case busError seen => simp only; split; exacts [t.conditionSeen_kept sg seen, .refl t]

theorem execRecoverySuccess_kept (s : State) (sg : Seg) (seen : RecoveryLines) :
    ∃ t, execRecoverySuccess sg seen s = .next t ∧ Kept s t := by
  refine ⟨_, rfl, ?_⟩
  split
  · exact s.recoverySucceeds_kept sg
  all_goals exact .refl s

theorem execRecoveryFailure_kept (s : State) (sg : Seg) (seen : RecoveryLines) :
    ∃ t, execRecoveryFailure sg seen s = .next t ∧ Kept s t := by
  refine ⟨_, rfl, ?_⟩
  split
  · exact s.recoveryFails_kept sg _
  all_goals exact .refl s

/-- Every command but DEVICE_RESET goes on, and carries the queue, the straps and the invariants over. -/
theorem exec_carried (c : Instr) (s : State) (h : ∀ pulse straps, c ≠ .deviceReset pulse straps) :
    ∃ t, exec c s = .next t ∧ Carried (editsMap c = false) s t := by
  cases c
  case deviceReset pulse straps => exact absurd rfl (h pulse straps)
  case addressByte p b low => exact ⟨_, rfl, (State.addressByte_carried _ _ p b).sampled⟩
  case startFormed sg => exact ⟨_, rfl, (s.startFormed_kept sg).carried _⟩
  case addressResult sg r low =>
    exact ⟨_, rfl, ((exec_byteOutcome_kept _ sg .address r _ fun a => State.addressAcked_kept _ sg a).carried _).sampled⟩
  case dataByte p b => exact ⟨_, rfl, (s.dataByte_kept p b).carried _⟩
  case byteResult sg r low =>
    exact ⟨_, rfl, ((exec_byteOutcome_kept _ sg .write r _ fun a => State.byteAcked_kept _ sg a).carried _).sampled⟩
  case readByte sg b => exact ⟨_, rfl, (s.readByte_kept sg b).carried _⟩
  case masterAcknowledge p a => exact ⟨_, rfl, (s.masterAcknowledge_kept p a).carried _⟩
  case upstreamStop p low => exact ⟨_, rfl, (State.upstreamStop_carried _ _ p).sampled⟩
  case upstreamBusError p seen pos low => exact ⟨_, rfl, (State.upstreamBusError_carried _ _ p seen pos).sampled⟩
  case mgmtDataByte p b =>
    refine ⟨_, rfl, ?_⟩
    split
    exacts [PortCtx.storeByte_carried _ s p b, .refl _ s]
  case managementWriteEnd p seen =>
    refine ⟨_, rfl, ?_⟩
    split
    exacts [PortCtx.endWrite_carried _ s p seen, .refl _ s]
  case mgmtReadAcknowledge p a =>
    refine ⟨_, rfl, ?_⟩
    split
    exacts [(Kept.modPort_face s p _ (PortCtx.settings_readNext a _)).carried _, .refl _ s]
  case unknownCommand p low =>
    refine ⟨_, rfl, Carried.sampled (low := low) ?_⟩
    unfold State.unknownCommand
    split
    · exact .refl _ _
    · split
      exacts [(Carried.refl _ _).finishCommand p _ fun _ => Nat.zero_le _, .refl _ _]
  case status p low => exact ⟨_, rfl, (State.takeCommand_carried _ p _ _ fun args _ => statusBody_carried _ _ p args).sampled⟩
  case portSet p low => exact ⟨_, rfl, (State.takeCommand_carried _ p _ _ fun args _ => portSetBody_carried _ _ p args).sampled⟩
  case switchReset p found =>
    exact ⟨_, rfl, (State.takeCommand_carried _ p _ _ fun _ _ =>
      ⟨State.switchReset_carried _ _ found.clocked, fun _ => Nat.zero_le _⟩).sampled⟩
  case reserve p low =>
    exact ⟨_, rfl, (State.takeCommand_carried _ p _ _ fun args free => reserveBody_carried _ _ p args (free rfl)).sampled⟩
  case renew p low => exact ⟨_, rfl, (State.takeCommand_carried _ p _ _ fun args _ => renewBody_carried _ _ p args).sampled⟩
  case release p low => exact ⟨_, rfl, (State.takeCommand_carried _ p _ _ fun args _ => releaseBody_carried _ _ p args).sampled⟩
  case revoke p low => exact ⟨_, rfl, (State.takeCommand_carried _ p _ _ fun args _ => revokeBody_carried _ _ args).sampled⟩
  case leaseList p low => exact ⟨_, rfl, (State.takeCommand_carried _ p _ _ fun args _ => leaseListBody_carried _ _ args).sampled⟩
  case segmentSet p low => exact ⟨_, rfl, (State.takeCommand_carried _ p _ _ fun args _ => segmentSetBody_carried _ _ args).sampled⟩
  case segmentRecover p low =>
    exact ⟨_, rfl, (State.takeCommand_carried _ p _ _ fun args _ => segmentRecoverBody_carried _ _ p args).sampled⟩
  case mapSet p low =>
    exact ⟨_, rfl, Carried.editing (by simp [editsMap]) (State.takeCommand_carried _ p _ _ fun args _ => mapSetBody_carried _ args).sampled⟩
  case mapClear p low =>
    exact ⟨_, rfl, Carried.editing (by simp [editsMap]) (State.takeCommand_carried _ p _ _ fun args _ => mapClearBody_carried _ args).sampled⟩
  case mapRead p low => exact ⟨_, rfl, (State.takeCommand_carried _ p _ _ fun args _ => mapReadBody_carried _ _ args).sampled⟩
  case portRestore p low =>
    exact ⟨_, rfl, (State.takeCommand_carried _ p _ _ fun args _ => portRestoreBody_carried _ _ args).sampled⟩
  case logRead p low => exact ⟨_, rfl, (State.takeCommand_carried _ p _ _ fun args _ => logReadBody_carried _ _ p args).sampled⟩
  case holdExpiry p found => exact ⟨_, rfl, ((State.holdExpiry_kept _ p found.crossing).carried _).sampled⟩
  case ownerIdleExpiry p pos low => exact ⟨_, rfl, ((State.ownerIdleExpiry_kept _ p pos).carried _).sampled⟩
  case leaseExpiry id => exact ⟨_, rfl, (s.leaseExpiry_kept id).carried _⟩
  case stuckScl sg low => exact ⟨_, rfl, ((State.stuck_kept _ sg .scl).carried _).sampled⟩
  case stuckSda sg low => exact ⟨_, rfl, ((State.stuck_kept _ sg .sda).carried _).sampled⟩
  case recoverySuccess sg seen =>
    obtain ⟨t, e, kept⟩ := execRecoverySuccess_kept s sg seen
    exact ⟨t, e, kept.carried _⟩
  case recoveryFailure sg seen =>
    obtain ⟨t, e, kept⟩ := execRecoveryFailure_kept s sg seen
    exact ⟨t, e, kept.carried _⟩
  case busFreeCheck sg => exact ⟨_, rfl, (Kept.modSgc s sg _ (Sgc.busFree_kept _)).carried _⟩
  case startSeen sg low => exact ⟨_, rfl, ((State.conditionSeen_kept _ sg .start).carried _).sampled⟩
  case stopSeen sg low => exact ⟨_, rfl, ((State.conditionSeen_kept _ sg .stop).carried _).sampled⟩
  case arbitrationLoss sg point low => exact ⟨_, rfl, ((State.arbitrationLoss_kept _ sg point).carried _).sampled⟩
  case stopDone sg low => exact ⟨_, rfl, ((State.stopDone_kept _ sg).carried _).sampled⟩

/-! ### DEVICE_RESET, and one step -/

/-- R171: DEVICE_RESET leaves the state as it was but for the count of free values, or gives every value of a reset. -/
theorem exec_deviceReset (pulse : ResetPulse) (straps : Straps) (s : State) :
    ∃ t, exec (.deviceReset pulse straps) s = .next t ∧
      (t = { s with freeCount := s.freeCount + 1 } ∨ ∃ n, t = { s.deviceReset straps with freeCount := n }) := by
  cases pulse
  case full => exact ⟨_, rfl, .inr ⟨s.freeCount, rfl⟩⟩
  case short =>
    refine ⟨_, rfl, ?_⟩
    split
    · exact .inr ⟨s.freeCount + 1, rfl⟩
    · exact .inl rfl

theorem PortCtx.reset_ok : PortOk PortCtx.reset :=
  ⟨⟨by decide, by decide⟩, ⟨by decide, by decide⟩, ⟨by decide, by decide⟩, ⟨by decide, by decide⟩, by decide, by decide,
    by decide⟩

theorem Sgc.reset_ok : SgcOk Sgc.reset :=
  ⟨fun _ => rfl, nofun, nofun, Nat.zero_le _, ⟨by decide, by decide⟩, ⟨by decide, by decide⟩, nofun, rfl⟩

@[simp] theorem State.port_reset (p : Port) : State.reset.port p = PortCtx.reset := by cases p <;> rfl
@[simp] theorem State.log_reset (p : Port) : State.reset.log p = Log.reset := by cases p <;> rfl
@[simp] theorem State.seg_reset (sg : Seg) : State.reset.seg sg = SegRecord.reset := by cases sg <;> rfl
@[simp] theorem State.sgc_reset (sg : Seg) : State.reset.sgc sg = Sgc.reset := by cases sg <;> rfl

theorem MapOk.ofEmpty {s : State} (h : s.map = []) : MapOk s :=
  ⟨by simp [h], by simp [h], by simp [h]⟩

theorem LeaseTableOk.ofEmpty {s : State} (h : s.leases = []) (hn : s.nextLeaseId ≠ 0) : LeaseTableOk s :=
  ⟨by simp [h], by simp [State.leasesHeld, h], by simp [h], by simp [h], by simp [h], hn, by simp [State.leasesHeld, h]⟩

/-- The state after a device reset is in form, whatever the straps, the queue, the pins and the count of free values. -/
theorem State.deviceReset_ok (s : State) (straps : Straps) (n : Nat) :
    let t := { s.deviceReset straps with freeCount := n }
    MapOk t ∧ LeaseTableOk t ∧ (∀ p, LogOk (t.port p).mask (t.log p)) ∧ (∀ p, PortOk (t.port p)) ∧
      (∀ sg, SgcOk (t.sgc sg)) ∧ ∀ p, ReplyOk (t.port p) := by
  have port : ∀ p, ({ s.deviceReset straps with freeCount := n } : State).port p = PortCtx.reset := State.port_reset
  have log : ∀ p, ({ s.deviceReset straps with freeCount := n } : State).log p = Log.reset := State.log_reset
  have sgc : ∀ sg, ({ s.deviceReset straps with freeCount := n } : State).sgc sg = Sgc.reset := State.sgc_reset
  refine ⟨.ofEmpty rfl, .ofEmpty rfl (by decide : (1 : Byte) ≠ 0), fun p => ?_, fun p => ?_, fun sg => ?_, fun p => ?_⟩
  · rw [port, log]; exact LogOk.reset _
  · rw [port]; exact PortCtx.reset_ok
  · rw [sgc]; exact Sgc.reset_ok
  · rw [port]; exact Nat.zero_le _

/-- A step carries the invariants over from the state with the queue's rest, or is a device reset. -/
theorem step_carried {s t : State} (h : step s = .next t) :
    (∃ queue, Carried False { s with pending := queue } t) ∨
      ∃ (u : State) (straps : Straps) (n : Nat), t = { u.deviceReset straps with freeCount := n } := by
  unfold step at h
  split at h
  · obtain rfl := Host.Outcome.next.inj h
    exact .inl ⟨s.pending, s.millisecond_carried False⟩
  · rename_i c queue _
    by_cases reset : ∃ pulse straps, c = .deviceReset pulse straps
    · obtain ⟨pulse, straps, rfl⟩ := reset
      obtain ⟨u, hu, short | ⟨n, full⟩⟩ := exec_deviceReset pulse straps { s with pending := queue }
      · obtain rfl := Host.Outcome.next.inj (hu.symm.trans h)
        exact .inl ⟨queue, short ▸ ⟨rfl, rfl, nofun, fun ok => ok.congr rfl rfl, fun ok => ok.congr rfl rfl fun _ => id,
          id, id, id, fun _ => id⟩⟩
      · obtain rfl := Host.Outcome.next.inj (hu.symm.trans h)
        exact .inr ⟨_, straps, n, full⟩
    · push Not at reset
      obtain ⟨u, hu, kept⟩ := exec_carried c { s with pending := queue } reset
      obtain rfl := Host.Outcome.next.inj (hu.symm.trans h)
      exact .inl ⟨queue, { kept with map := False.elim }⟩

/-! ### The obligations -/

/-- Settles O54: MAP_SET and MAP_CLEAR keep the map in form, a device reset empties it, and nothing else touches it. -/
theorem routeMapInvariantIsKept : Obligations.RouteMapInvariantIsKept := by
  intro s t ok h
  rcases step_carried h with ⟨queue, kept⟩ | ⟨u, straps, n, rfl⟩
  · exact kept.mapOk (ok.congr rfl rfl)
  · exact (u.deviceReset_ok straps n).1

/-- Settles O55: RESERVE, RENEW and the millisecond keep the table in form; a reset empties it; else leases only go. -/
theorem leaseTableInvariantIsKept : Obligations.LeaseTableInvariantIsKept := by
  intro s t ok h
  rcases step_carried h with ⟨queue, kept⟩ | ⟨u, straps, n, rfl⟩
  · exact kept.leaseTableOk (ok.congr rfl rfl fun _ => id)
  · exact (u.deviceReset_ok straps n).2.1

/-- Settles O56: a log takes records, is read, has its line set again, or is emptied; each keeps it in form. -/
theorem logInvariantIsKept : Obligations.LogInvariantIsKept := by
  intro s t ok h
  rcases step_carried h with ⟨queue, kept⟩ | ⟨u, straps, n, rfl⟩
  · exact kept.logOk ok
  · obtain ⟨_, _, log, _⟩ := u.deviceReset_ok straps n
    exact log

/-- Settles O59: ports, controllers and replies, each carried by every command and set up by a device reset. -/
theorem portsAndControllersStayInRange : Obligations.PortsAndControllersStayInRange := by
  refine ⟨fun s t ports sgcs h => ?_, fun s t table replies h => ?_⟩
  · rcases step_carried h with ⟨queue, kept⟩ | ⟨u, straps, n, rfl⟩
    · exact ⟨kept.portOk ports, kept.sgcOk sgcs⟩
    · obtain ⟨_, _, _, port, sgc, _⟩ := u.deviceReset_ok straps n
      exact ⟨port, sgc⟩
  · rcases step_carried h with ⟨queue, kept⟩ | ⟨u, straps, n, rfl⟩
    · exact kept.replyOk (table.congr rfl rfl fun _ => id) replies
    · obtain ⟨_, _, _, _, _, reply⟩ := u.deviceReset_ok straps n
      exact reply

/-- Settles O3: exec_carried says it of every command but DEVICE_RESET, which also goes on and leaves the queue. -/
theorem everyCommandGoesOnAndLeavesTheQueue : Obligations.EveryCommandGoesOnAndLeavesTheQueue := by
  refine ⟨fun c s => ?_, fun c s t h noReset => ?_⟩
  · by_cases reset : ∃ pulse straps, c = .deviceReset pulse straps
    · obtain ⟨pulse, straps, rfl⟩ := reset
      obtain ⟨t, ht, rfl | ⟨n, rfl⟩⟩ := exec_deviceReset pulse straps s
      · exact ⟨_, ht, rfl⟩
      · exact ⟨_, ht, rfl⟩
    · push Not at reset
      obtain ⟨t, ht, kept⟩ := exec_carried c s reset
      exact ⟨t, ht, kept.pending⟩
  · obtain ⟨u, hu, kept⟩ := exec_carried c s noReset
    obtain rfl := Host.Outcome.next.inj (hu.symm.trans h)
    refine ⟨kept.straps, fun noSet noClear => kept.map ?_⟩
    cases c
    case mapSet p low => exact absurd rfl (noSet p low)
    case mapClear p low => exact absurd rfl (noClear p low)
    all_goals rfl

end Sys2Proof.Machine
end

section
/-! Claims and owners over a switch reset (R4, R7, R43, R70): OwnershipOk lets a segment whose close has been taken stand in
IDLE, and from such a state a switch reset breaks the agreement of marks and owners. -/

namespace Sys2Proof.Machine

/-- U0 asks for a switch reset. U1 holds a general call write until its release, with the close of S0 taken though S0 is
in IDLE; U2 writes on S2. S1 and S2 are open to broadcasts. -/
def closedInIdle : State :=
  { State.reset with
    ports :=
      ⟨{ PortCtx.reset with handed := some ⟨messageBytes 0x0F [], false⟩ },
        { PortCtx.reset with phase := .awaitEnd, release := some (.address ⟨0, .write⟩ none) },
        { PortCtx.reset with phase := .fwdWrite }, PortCtx.reset⟩
    segs :=
      { State.reset.segs with
        s0 := ⟨some ⟨.u1, .single⟩, []⟩
        s2 := ⟨some ⟨.u2, .single⟩, []⟩ }
    sgcs :=
      { State.reset.sgcs with
        s0 := { Sgc.reset with line := .idle, busBusy := false, closing := true }
        s1 := { Sgc.reset with line := .idle, busBusy := false, broadcastFlag := true }
        s2 := { Sgc.reset with line := .parked, busBusy := false, broadcastFlag := true } }
    pending := [.switchReset .u0 ⟨[], []⟩] }

theorem closedInIdle_noClaims (sg : Seg) : (closedInIdle.seg sg).waitList = [] := by cases sg <;> rfl

theorem closedInIdle_noMarks (p : Port) (sg : Seg) : closedInIdle.markOf p sg = none := by cases p <;> rfl

theorem closedInIdle_owner (sg : Seg) (o : Owner) (h : (closedInIdle.seg sg).owner = some o) :
    sg = .s0 ∧ o = ⟨.u1, .single⟩ ∨ sg = .s2 ∧ o = ⟨.u2, .single⟩ := by
  cases sg
  case s0 => exact .inl ⟨rfl, (Option.some.inj h).symm⟩
  case s2 => exact .inr ⟨rfl, (Option.some.inj h).symm⟩
  all_goals contradiction

theorem closedInIdle_arbiterOk (sg : Seg) : ArbiterOk closedInIdle sg :=
  ⟨fun _ => closedInIdle_noClaims sg, fun h => absurd (by cases sg <;> rfl) h⟩

theorem closedInIdle_ownershipOk : OwnershipOk closedInIdle where
  claimPhase sg c hc := by simp [closedInIdle_noClaims] at hc
  claimOnce p := by simp [closedInIdle_noClaims]
  withdrawn _ _ _ sg c hc := by simp [closedInIdle_noClaims] at hc
  singleClaim sg p a hc := by simp [closedInIdle_noClaims] at hc
  broadcastClaim sg p hc := by simp [closedInIdle_noClaims] at hc
  ownPhase sg o h := by rcases closedInIdle_owner sg o h with ⟨rfl, rfl⟩ | ⟨rfl, rfl⟩ <;> decide
  singleOwner sg p h := by
    rcases closedInIdle_owner sg _ h with ⟨rfl, e⟩ | ⟨rfl, e⟩ <;> obtain ⟨rfl⟩ := e <;> decide
  broadcastOwner sg p h := by rcases closedInIdle_owner sg _ h with ⟨_, e⟩ | ⟨_, e⟩ <;> simp at e
  ownedMark sg p h := by simp [closedInIdle_noMarks] at h
  flagged sg p h := by
    rcases h with h | h
    · simp [closedInIdle_noMarks] at h
    · rcases closedInIdle_owner sg _ h with ⟨_, e⟩ | ⟨_, e⟩ <;> simp at e
  acquiring sg o h := by rcases closedInIdle_owner sg o h with ⟨rfl, rfl⟩ | ⟨rfl, rfl⟩ <;> exact nofun
  unowned sg := by cases sg <;> decide
  closes sg o h := by
    rcases closedInIdle_owner sg o h with ⟨rfl, rfl⟩ | ⟨rfl, rfl⟩
    · exact fun _ => rfl
    · rintro (stopping | pending)
      · contradiction
      · exact absurd rfl pending
  releasePhase p := by cases p <;> decide
  idlePhase p := by cases p <;> decide
  heldPhase p := by cases p <;> decide

/-- Refutes O58: the reset of S0 releases it at once, so U1's general call is resolved in the midst of the reset and takes
S1, waiting for S2. The reset of S1 then releases S1, too, and U1, still in CLAIM, keeps it marked OWNED. The state is one
that OwnershipOk admits and no run reaches: a close taken in IDLE is done at once (Table 4-4). -/
theorem not_ownershipInvariantIsKept : ¬ Obligations.OwnershipInvariantIsKept := by
  intro kept
  have after := kept closedInIdle _ closedInIdle_arbiterOk closedInIdle_ownershipOk rfl
  have owner := after.ownedMark .s1 .u1 (by decide) (by decide)
  exact absurd owner (by decide)

end Sys2Proof.Machine
end

section
/-! The segment records (R7, R13, R14): what claims, grants, refusals and resolutions do to them, what a release and a flush
do, and so that every command keeps them in form. -/

namespace Sys2Proof.Machine

/-! ### What claims and their answers do to the segment records -/

/-- What every operation of claims does to the segment records: conditions stay, a segment that is not AVAILABLE is left
alone, an owner stays, a segment left unowned is left alone, and a wait list only gains claims at its tail. -/
structure ClaimsMoved (s t : State) : Prop where
  condition : ∀ x, t.condition x = s.condition x
  unavailable : ∀ x, s.condition x ≠ .available → t.seg x = s.seg x
  owner : ∀ x o, (s.seg x).owner = some o → (t.seg x).owner = some o
  unowned : ∀ x, (t.seg x).owner = none → t.seg x = s.seg x
  list : ∀ x, ∃ more, (t.seg x).waitList = (s.seg x).waitList ++ more

/-- The segment records and the conditions are the same. -/
theorem ClaimsMoved.of_same {s t : State} (hseg : ∀ x, t.seg x = s.seg x)
    (hcond : ∀ x, t.condition x = s.condition x) : ClaimsMoved s t :=
  ⟨hcond, fun x _ => hseg x, fun x o h => by rw [hseg]; exact h, fun x _ => hseg x, fun x => ⟨[], by rw [hseg]; simp⟩⟩

theorem ClaimsMoved.refl (s : State) : ClaimsMoved s s := .of_same (fun _ => rfl) fun _ => rfl

theorem ClaimsMoved.trans {s t u : State} (h : ClaimsMoved s t) (g : ClaimsMoved t u) : ClaimsMoved s u where
  condition x := (g.condition x).trans (h.condition x)
  unavailable x away := (g.unavailable x (by rw [h.condition]; exact away)).trans (h.unavailable x away)
  owner x o own := g.owner x o (h.owner x o own)
  unowned x free := by
    have same := g.unowned x free
    exact same.trans (h.unowned x (same ▸ free))
  list x := by
    obtain ⟨more, hm⟩ := h.list x
    obtain ⟨more', hm'⟩ := g.list x
    exact ⟨more ++ more', by rw [hm', hm, List.append_assoc]⟩

theorem ClaimsMoved.foldl {α : Type} (f : State → α → State) (hf : ∀ s a, ClaimsMoved s (f s a)) (as : List α) (s : State) :
    ClaimsMoved s (as.foldl f s) := by
  induction as generalizing s with
  | nil => exact .refl s
  | cons a rest ih => exact (hf s a).trans (ih _)

/-- A segment record in form stays in form. -/
theorem ClaimsMoved.arbiterOk {s t : State} (h : ClaimsMoved s t) {x : Seg} (ok : ArbiterOk s x) : ArbiterOk t x where
  unowned free := by
    have same := h.unowned x free
    rw [same] at free ⊢
    exact ok.unowned free
  unavailable away := by
    rw [h.condition] at away
    rw [h.unavailable x away]
    exact ok.unavailable away

theorem ClaimsMoved.modPort (s : State) (p : Port) (f : PortCtx → PortCtx) : ClaimsMoved s (s.modPort p f) :=
  .of_same (fun _ => rfl) fun _ => rfl

theorem ClaimsMoved.modLog (s : State) (p : Port) (f : Log → Log) : ClaimsMoved s (s.modLog p f) :=
  .of_same (fun _ => rfl) fun _ => rfl

theorem ClaimsMoved.writeRecord (s : State) (p : Port) (b : RecordBody) : ClaimsMoved s (s.writeRecord p b) :=
  ClaimsMoved.modLog s p _

theorem ClaimsMoved.sampleLines (s : State) (low : List Seg) : ClaimsMoved s (s.sampleLines low) :=
  .of_same (fun _ => rfl) fun _ => rfl

theorem State.condition_modSgc_same (s : State) (sg : Seg) (f : Sgc → Sgc) :
    (s.modSgc sg f).condition sg = lineCondition (f (s.sgc sg)).line := by
  rw [State.condition, State.sgc_modSgc_same]

theorem State.condition_modSgc_ne (s : State) {sg x : Seg} (f : Sgc → Sgc) (h : x ≠ sg) :
    (s.modSgc sg f).condition x = s.condition x := by
  rw [State.condition, State.sgc_modSgc_ne _ _ _ h, State.condition]

/-- A controller's update that leaves the condition. -/
theorem ClaimsMoved.modSgc (s : State) (sg : Seg) (f : Sgc → Sgc)
    (h : lineCondition (f (s.sgc sg)).line = lineCondition (s.sgc sg).line) : ClaimsMoved s (s.modSgc sg f) := by
  refine .of_same (fun _ => rfl) fun x => ?_
  by_cases e : x = sg
  · subst e; rw [State.condition_modSgc_same, h]; rfl
  · exact State.condition_modSgc_ne s f e

theorem lineCondition_formStart (c : Sgc) : lineCondition c.formStart.line = .available := rfl

theorem Sgc.lineCondition_beginAddress (low : Bool) (d : Dest) (dir : Dir) (c : Sgc) :
    lineCondition (c.beginAddress low d dir).line = lineCondition c.line := by
  unfold Sgc.beginAddress
  simp only
  split
  · rename_i line
    rw [line]
    split <;> rfl
  · rename_i line
    rw [line]
    rfl
  all_goals rfl

theorem State.beginOn_moved (s : State) (sg : Seg) (d : Dest) (dir : Dir) : ClaimsMoved s (s.beginOn sg d dir) :=
  .modSgc s sg _ (Sgc.lineCondition_beginAddress _ d dir _)

/-- R8: what a granted claim, and a queued one, have found. -/
theorem State.arrival_granted {s : State} {p : Port} {sg : Seg} {d : Dest} (h : s.arrival p sg d = .granted) :
    s.coveringLease p sg d = none ∧ s.condition sg = .available ∧ (s.seg sg).owner = none := by
  unfold State.arrival at h
  split at h
  · contradiction
  · rename_i noLease
    split at h
    · contradiction
    · rename_i cond
      split at h
      · rename_i free
        exact ⟨noLease, by simpa using cond, free⟩
      · contradiction

theorem State.arrival_queued {s : State} {p : Port} {sg : Seg} {d : Dest} (h : s.arrival p sg d = .queued) :
    s.coveringLease p sg d = none ∧ s.condition sg = .available ∧ ∃ o, (s.seg sg).owner = some o := by
  unfold State.arrival at h
  split at h
  · contradiction
  · rename_i noLease
    split at h
    · contradiction
    · rename_i cond
      split at h
      · contradiction
      · rename_i o own
        exact ⟨noLease, by simpa using cond, o, own⟩

/-- An update of the record of an AVAILABLE segment that leaves it owned, keeps an owner and adds claims at the tail. -/
theorem ClaimsMoved.modSeg (s : State) (sg : Seg) (f : SegRecord → SegRecord) (cond : s.condition sg = .available)
    (hown : ∀ o, (s.seg sg).owner = some o → (f (s.seg sg)).owner = some o) (hsome : (f (s.seg sg)).owner ≠ none)
    (hlist : ∃ more, (f (s.seg sg)).waitList = (s.seg sg).waitList ++ more) : ClaimsMoved s (s.modSeg sg f) where
  condition _ := rfl
  unavailable x away := State.seg_modSeg_ne s sg f fun e => away (e ▸ cond)
  owner x o own := by
    by_cases e : x = sg
    · subst e; rw [State.seg_modSeg_same]; exact hown o own
    · rw [State.seg_modSeg_ne _ _ _ e]; exact own
  unowned x free := by
    by_cases e : x = sg
    · subst e; rw [State.seg_modSeg_same] at free; exact absurd free hsome
    · exact State.seg_modSeg_ne s sg f e
  list x := by
    by_cases e : x = sg
    · subst e; rw [State.seg_modSeg_same]; exact hlist
    · exact ⟨[], by rw [State.seg_modSeg_ne _ _ _ e, List.append_nil]⟩

theorem State.setOwner_moved {s : State} {p : Port} {sg : Seg} {d : Dest} (h : s.arrival p sg d = .granted) :
    ClaimsMoved s (s.setOwner p sg d) := by
  obtain ⟨_, cond, free⟩ := State.arrival_granted h
  exact .modSeg s sg _ cond (fun o own => by rw [free] at own; contradiction) nofun ⟨[], by simp⟩

theorem State.enqueueClaim_moved {s : State} {p : Port} {sg : Seg} {d : Dest} (h : s.arrival p sg d = .queued) :
    ClaimsMoved s (s.enqueueClaim p sg d) := by
  obtain ⟨_, cond, o, own⟩ := State.arrival_queued h
  exact .modSeg s sg _ cond (fun _ => id) (by simp [own]) ⟨_, rfl⟩

theorem State.openSingle_moved (s : State) (p : Port) : ClaimsMoved s (s.openSingle p) := by
  unfold State.openSingle
  simp only
  split
  · exact (ClaimsMoved.modPort s p _).trans (State.beginOn_moved _ _ _ _)
  all_goals exact .modPort s p _

theorem State.dropMember_moved (s : State) (p : Port) (sg : Seg) (why : RefusalReason) :
    ClaimsMoved s (s.dropMember p sg why) :=
  ((ClaimsMoved.modPort s p _).trans (ClaimsMoved.modPort _ p _)).trans (ClaimsMoved.writeRecord _ p _)

theorem State.acquisitionEnd_moved (s : State) (p : Port) : ClaimsMoved s (s.acquisitionEnd p) := by
  unfold State.acquisitionEnd
  split
  · exact .modPort s p _
  · exact (ClaimsMoved.modPort s p _).trans (.foldl _ (fun t sg => State.beginOn_moved t sg _ _) _ _)

theorem State.acquire_moved (p : Port) (sgs : List Seg) (s : State) : ClaimsMoved s (State.acquire p sgs s) := by
  induction sgs generalizing s with
  | nil => exact State.acquisitionEnd_moved s p
  | cons sg rest ih =>
    unfold State.acquire
    split
    · split
      · exact (State.dropMember_moved s p sg _).trans (ih _)
      · rename_i granted
        exact ((State.setOwner_moved granted).trans (ClaimsMoved.modPort _ p _)).trans (ih _)
      · rename_i queued
        exact State.enqueueClaim_moved queued
    · exact ih s

theorem State.acquireNext_moved (s : State) (p : Port) : ClaimsMoved s (s.acquireNext p) := by
  unfold State.acquireNext
  split
  · exact State.acquire_moved _ _ _
  · exact .refl s

theorem State.refuse_moved (s : State) (p : Port) (b : RecordBody) : ClaimsMoved s (s.refuse p b) :=
  (ClaimsMoved.modPort s p _).trans (ClaimsMoved.writeRecord _ p b)

theorem State.claimSingle_moved (s : State) (p : Port) (r : Route) : ClaimsMoved s (s.claimSingle p r) := by
  unfold State.claimSingle
  simp only
  split
  · exact (ClaimsMoved.modPort s p _).trans (State.refuse_moved _ p _)
  · rename_i granted
    exact ((ClaimsMoved.modPort s p _).trans (State.setOwner_moved granted)).trans (State.openSingle_moved _ p)
  · rename_i queued
    exact (ClaimsMoved.modPort s p _).trans (State.enqueueClaim_moved queued)

theorem State.formBroadcast_moved (s : State) (p : Port) : ClaimsMoved s (s.formBroadcast p) := by
  have recorded : ∀ (l : List (Seg × Byte)) (t : State), ClaimsMoved t (l.foldl
      (fun t x => t.writeRecord p (refusalRecord (.reservedElsewhere x.2) (some 0) (some x.1))) t) :=
    .foldl _ fun t x => ClaimsMoved.writeRecord t p _
  unfold State.formBroadcast
  simp only
  split
  · exact (recorded _ _).trans (.modPort _ p _)
  · exact ((recorded _ _).trans (.modPort _ p _)).trans (State.acquire_moved _ _ _)

theorem State.resolve_moved (s : State) (p : Port) (b : AddrByte) : ClaimsMoved s (s.resolve p b) := by
  have taken := ClaimsMoved.modPort s p fun c => { c.takeLimits with heldAddr := none, readPos := none, out := none }
  unfold State.resolve
  simp only
  split
  · exact taken.trans (.modPort _ p _)
  · exact taken.trans (State.formBroadcast_moved _ p)
  · exact taken.trans (.modPort _ p _)
  · exact taken.trans (State.refuse_moved _ p _)
  · exact taken.trans (State.claimSingle_moved _ p _)

theorem State.enterQuarantine_moved (s : State) (p : Port) : ClaimsMoved s (s.enterQuarantine p) := by
  unfold State.enterQuarantine
  simp only
  refine ClaimsMoved.trans ?_ (ClaimsMoved.writeRecord _ p _)
  refine ClaimsMoved.trans ?_ (.foldl _ (fun t l => ClaimsMoved.writeRecord t p _) _ _)
  exact .of_same (fun _ => rfl) fun _ => rfl

theorem State.actOnPending_moved (s : State) (p : Port) (pend : Pending) : ClaimsMoved s (s.actOnPending p pend) := by
  unfold State.actOnPending
  split
  case h_5 => exact State.resolve_moved s p _
  all_goals exact .modPort s p _

theorem State.finishRelease_moved (s : State) (p : Port) (pend : Pending) : ClaimsMoved s (s.finishRelease p pend) := by
  unfold State.finishRelease
  simp only
  refine ClaimsMoved.trans ?_ (State.actOnPending_moved _ p pend)
  split
  · exact (ClaimsMoved.modPort s p _).trans (State.enterQuarantine_moved _ p)
  · exact .modPort s p _

theorem State.portReleased_moved (s : State) (p : Port) : ClaimsMoved s (s.portReleased p) := by
  unfold State.portReleased
  split
  · split
    · exact State.finishRelease_moved s p _
    · exact .refl s
  · exact .refl s

theorem State.refuseClaim_moved (why : RefusalReason) (sg : Seg) (s : State) (c : Claim) :
    ClaimsMoved s (State.refuseClaim why sg s c) := by
  unfold State.refuseClaim
  split
  · exact State.refuse_moved s _ _
  · exact (State.dropMember_moved s _ sg why).trans (State.acquireNext_moved _ _)

theorem State.dropIfPending_moved (why : RefusalReason) (sg : Seg) (s : State) (p : Port) :
    ClaimsMoved s (State.dropIfPending why sg s p) := by
  unfold State.dropIfPending
  split
  · exact State.dropMember_moved s p sg why
  · exact .refl s

theorem State.collect_moved (s : State) (p : Port) : ClaimsMoved s (s.collect p) := by
  unfold State.collect
  simp only
  split
  · split
    · split <;> exact .modPort s p _
    · split
      · exact .refl s
      · split <;> exact .modPort s p _
    all_goals exact .refl s
  · exact .refl s

theorem State.takeCause_moved (s : State) (p : Port) (sg : Seg) (cause : Option AbortCause) :
    ClaimsMoved s (s.takeCause p sg cause) := by
  unfold State.takeCause
  split
  · exact .refl s
  · simp only
    split
    · exact (ClaimsMoved.writeRecord s p _).trans (.modPort _ p _)
    · exact .modPort s p _

theorem State.handAbort_moved (s : State) (o : Owner) (sg : Seg) (cause : AbortCause) :
    ClaimsMoved s (s.handAbort o sg cause) := by
  unfold State.handAbort
  split <;> exact (ClaimsMoved.modPort s _ _).trans (ClaimsMoved.writeRecord _ _ _)

/-! ### Every record in form -/

/-- R7, R13, R14 for every segment. -/
def State.arbiters (s : State) : Prop := ∀ sg, ArbiterOk s sg

theorem ClaimsMoved.arbiters {s t : State} (h : ClaimsMoved s t) (ok : s.arbiters) : t.arbiters := fun x => h.arbiterOk (ok x)

/-- The segment records and line states alone decide. -/
theorem State.arbiters.congr {s t : State} (ok : s.arbiters) (hseg : t.segs = s.segs) (hsgc : t.sgcs = s.sgcs) : t.arbiters := by
  refine (ClaimsMoved.of_same (s := s) (t := t) (fun x => ?_) fun x => ?_).arbiters ok
  · rw [State.seg, hseg, State.seg]
  · rw [State.condition, State.sgc, hsgc, State.condition, State.sgc]

/-- Claims taken out of the wait lists leave the records in form. -/
theorem State.arbiters.filterLists {s t : State} (ok : s.arbiters) (hcond : ∀ x, t.condition x = s.condition x)
    (howner : ∀ x, (t.seg x).owner = (s.seg x).owner)
    (hlist : ∀ x, (s.seg x).waitList = [] → (t.seg x).waitList = []) : t.arbiters := fun x =>
  ⟨fun free => hlist x ((ok x).unowned (howner x ▸ free)), fun away => by
    obtain ⟨free, empty⟩ := (ok x).unavailable (hcond x ▸ away)
    exact ⟨(howner x).trans free, hlist x empty⟩⟩

theorem State.arbiters.withdraw {s : State} (ok : s.arbiters) (p : Port) (sg : Seg) : (s.withdraw p sg).arbiters := by
  refine ok.filterLists (fun _ => rfl) (fun x => ?_) fun x empty => ?_
  · by_cases e : x = sg
    · subst e; simp [State.withdraw]
    · simp [State.withdraw, e]
  · by_cases e : x = sg
    · subst e; simp [State.withdraw, empty]
    · simpa [State.withdraw, e] using empty

/-- A controller's update after which the segment is AVAILABLE, or which leaves its condition. -/
theorem State.arbiters.modSgc {s : State} (ok : s.arbiters) (sg : Seg) (f : Sgc → Sgc)
    (h : lineCondition (f (s.sgc sg)).line = .available ∨
      lineCondition (f (s.sgc sg)).line = lineCondition (s.sgc sg).line) : (s.modSgc sg f).arbiters := by
  rcases h with h | h
  · intro x
    by_cases e : x = sg
    · subst e
      exact ⟨fun free => (ok x).unowned free, fun away => absurd ((State.condition_modSgc_same s x f).trans h) away⟩
    · exact ⟨(ok x).unowned, fun away => (ok x).unavailable (State.condition_modSgc_ne s f e ▸ away)⟩
  · exact (ClaimsMoved.modSgc s sg f h).arbiters ok

/-! ### Grants, releases and flushes -/

/-- R10, R11: every other record in form and the segment itself unowned, the grant of its head claim puts it in form, if it
is AVAILABLE. -/
theorem State.grantHead_arbiters {s : State} {sg : Seg} (others : ∀ x, x ≠ sg → ArbiterOk s x)
    (cond : s.condition sg = .available) : (s.grantHead sg).arbiters := by
  unfold State.grantHead
  split
  · rename_i empty
    intro x
    by_cases e : x = sg
    · subst e; exact ⟨fun _ => empty, fun away => absurd cond away⟩
    · exact others x e
  · rename_i c rest waiting
    have granted : ((s.modSeg sg fun r => { r with waitList := rest }).setOwner c.port sg c.dest).arbiters := by
      intro x
      by_cases e : x = sg
      · subst e
        refine ⟨fun free => ?_, fun away => absurd cond away⟩
        simp [State.setOwner] at free
      · have same : ((s.modSeg sg fun r => { r with waitList := rest }).setOwner c.port sg c.dest).seg x = s.seg x := by
          simp [State.setOwner, e]
        exact ⟨by rw [same]; exact (others x e).unowned, by rw [same]; exact (others x e).unavailable⟩
    simp only
    split
    · exact (State.openSingle_moved _ _).arbiters granted
    · exact ((ClaimsMoved.modPort _ _ _).trans (State.acquireNext_moved _ _)).arbiters granted

/-- R9, R10, R82: a release puts the segment's record in form; not AVAILABLE, its wait list must have been emptied. -/
theorem State.releaseSeg_arbiters {s : State} {sg : Seg} (others : ∀ x, x ≠ sg → ArbiterOk s x)
    (own : (s.seg sg).owner = none → ArbiterOk s sg)
    (empty : s.condition sg ≠ .available → (s.seg sg).waitList = []) (cause : Option AbortCause) :
    (s.releaseSeg sg cause).arbiters := by
  unfold State.releaseSeg
  split
  · rename_i free
    intro x
    by_cases e : x = sg
    · subst e; exact own free
    · exact others x e
  · rename_i o _
    simp only
    refine (State.portReleased_moved _ _).arbiters ?_
    have moved : ClaimsMoved s ((s.modSgc sg Sgc.released).takeCause o.port sg cause) :=
      (ClaimsMoved.modSgc s sg _ rfl).trans (State.takeCause_moved _ _ _ _)
    generalize (s.modSgc sg Sgc.released).takeCause o.port sg cause = t at moved
    have others' : ∀ x, x ≠ sg → ArbiterOk (t.modSeg sg fun r => { r with owner := none }) x := by
      intro x e
      have ok := moved.arbiterOk (others x e)
      have same : (t.modSeg sg fun r => { r with owner := none }).seg x = t.seg x := State.seg_modSeg_ne _ _ _ e
      exact ⟨by rw [same]; exact ok.unowned, by rw [same]; exact ok.unavailable⟩
    split
    · rename_i cond
      exact State.grantHead_arbiters others' (by simpa using cond)
    · rename_i cond
      intro x
      by_cases e : x = sg
      · subst e
        have away : s.condition x ≠ .available := by
          rw [← moved.condition]
          exact fun e => cond (beq_iff_eq.mpr e)
        have list : (t.seg x).waitList = [] := by rw [moved.unavailable x away]; exact empty away
        exact ⟨fun _ => by simpa using list, fun _ => by simpa using list⟩
      · exact others' x e

theorem State.arbiters.releaseSeg {s : State} (ok : s.arbiters) (sg : Seg) (cause : Option AbortCause) :
    (s.releaseSeg sg cause).arbiters :=
  State.releaseSeg_arbiters (fun x _ => ok x) (fun _ => ok sg) (fun away => ((ok sg).unavailable away).2) cause

theorem State.arbiters.closeSeg {s : State} (ok : s.arbiters) (sg : Seg) : (s.closeSeg sg).arbiters := by
  unfold State.closeSeg
  split <;> rename_i line
  case h_1 => exact ok.releaseSeg sg _
  case h_2 => exact ok.releaseSeg sg _
  case h_3 =>
    refine (ok.modSgc sg _ (.inl ?_)).releaseSeg sg _
    simp only
    split <;> rfl
  case h_7 => exact ok.modSgc sg _ (.inl rfl)
  case h_8 => exact ok.modSgc sg _ (.inl rfl)
  case h_4 => exact ok.modSgc sg _ (.inr rfl)
  case h_5 => exact ok.modSgc sg _ (.inr rfl)
  case h_6 => exact ok.modSgc sg _ (.inr rfl)
  all_goals exact ok

theorem State.arbiters.foldl {α : Type} {f : State → α → State} (hf : ∀ (s : State) a, s.arbiters → (f s a).arbiters)
    (as : List α) {s : State} (ok : s.arbiters) : (as.foldl f s).arbiters := by
  induction as generalizing s with
  | nil => exact ok
  | cons a rest ih => exact ih (hf s a ok)

theorem State.arbiters.closeAll {s : State} (ok : s.arbiters) (p : Port) : (s.closeAll p).arbiters := by
  unfold State.closeAll
  split
  · exact (State.portReleased_moved s p).arbiters ok
  · exact ok.foldl (fun _ sg h => h.closeSeg sg) _

/-- R13, R116: a flush of a segment that is not AVAILABLE leaves it with its owner and an empty list, and every other record
in form. -/
theorem State.conditionLeft_flushed {s : State} {sg : Seg} (away : s.condition sg ≠ .available) :
    ((s.conditionLeft sg).seg sg).owner = (s.seg sg).owner ∧ ((s.conditionLeft sg).seg sg).waitList = [] ∧
      (s.conditionLeft sg).condition sg = s.condition sg ∧
      ∀ x, x ≠ sg → ArbiterOk s x → ArbiterOk (s.conditionLeft sg) x := by
  have moved : ClaimsMoved (s.modSeg sg fun r => { r with waitList := [] }) (s.conditionLeft sg) :=
    (ClaimsMoved.foldl _ (State.refuseClaim_moved _ sg) _ _).trans (.foldl _ (State.dropIfPending_moved _ sg) _ _)
  have same := moved.unavailable sg away
  refine ⟨by rw [same]; simp, by rw [same]; simp, moved.condition sg, fun x e ok => moved.arbiterOk ?_⟩
  have here : (s.modSeg sg fun r => { r with waitList := [] }).seg x = s.seg x := State.seg_modSeg_ne _ _ _ e
  exact ⟨by rw [here]; exact ok.unowned, by rw [here]; exact ok.unavailable⟩

/-- A segment that goes out of use with no owner, flushed. -/
theorem State.arbiters.outOfUse {s : State} (ok : s.arbiters) (sg : Seg) (f : Sgc → Sgc)
    (away : lineCondition (f (s.sgc sg)).line ≠ .available) (free : (s.seg sg).owner = none) :
    ((s.modSgc sg f).conditionLeft sg).arbiters := by
  have away' : (s.modSgc sg f).condition sg ≠ .available := by rw [State.condition_modSgc_same]; exact away
  obtain ⟨owner, list, cond, others⟩ := State.conditionLeft_flushed away'
  intro x
  by_cases e : x = sg
  · subst e
    exact ⟨fun _ => list, fun _ => ⟨owner.trans free, list⟩⟩
  · refine others x e ⟨(ok x).unowned, ?_⟩
    rw [State.condition_modSgc_ne s f e]
    exact (ok x).unavailable

theorem State.arbiters.leaseHandOver {s : State} (ok : s.arbiters) (l : Lease) : (s.leaseHandOver l).arbiters := by
  refine (ClaimsMoved.trans (.foldl _ (State.refuseClaim_moved _ l.seg) _ _)
    (.foldl _ (State.dropIfPending_moved _ l.seg) _ _)).arbiters (ok.filterLists (fun _ => rfl) (fun x => ?_) fun x empty => ?_)
  · by_cases e : x = l.seg
    · subst e; simp
    · simp [e]
  · by_cases e : x = l.seg
    · subst e; simp [empty]
    · simpa [e] using empty

theorem State.arbiters.endWithCause {s : State} (ok : s.arbiters) (sg : Seg) (cause : AbortCause) (f : Sgc → Sgc)
    (hf : ∀ c, lineCondition (f c).line = .available) : (s.endWithCause sg cause f).arbiters := by
  unfold State.endWithCause
  split
  · exact ok
  · split
    · exact (State.collect_moved _ _).arbiters ((ok.modSgc sg f (.inl (hf _))).releaseSeg sg _)
    · exact (State.collect_moved _ _).arbiters
        ((((State.handAbort_moved s _ sg cause).arbiters ok).modSgc sg f (.inl (hf _))).releaseSeg sg _)

theorem Sgc.lineCondition_busError (seen : BusCondition) (c : Sgc) : lineCondition (c.busError seen).line = .available := by
  cases seen <;> rfl

theorem State.arbiters.stuckDetected {s : State} (ok : s.arbiters) (sg : Seg) (line : BusLine) :
    (s.stuckDetected sg line).arbiters := by
  unfold State.stuckDetected
  split
  · exact ok
  · rename_i o own
    simp only
    refine (State.collect_moved _ _).arbiters ?_
    have handed : ClaimsMoved s (if (s.sgc sg).closing then s else s.handAbort o sg (.stuck line)) := by
      split
      · exact .refl s
      · exact State.handAbort_moved s o sg _
    generalize (if (s.sgc sg).closing then s else s.handAbort o sg (.stuck line)) = t at handed
    have okt := handed.arbiters ok
    have away : (t.modSgc sg fun c => { c with origin := some (.automatic o.port), line := .recovery }).condition sg ≠
        .available := by
      rw [State.condition_modSgc_same]
      exact nofun
    obtain ⟨owner, list, _, others⟩ := State.conditionLeft_flushed away
    refine State.releaseSeg_arbiters (fun x e => others x e ⟨(okt x).unowned, ?_⟩) (fun free => ?_) (fun _ => list) _
    · rw [State.condition_modSgc_ne t _ e]
      exact (okt x).unavailable
    · rw [owner, State.seg_modSgc, handed.owner sg o own] at free
      contradiction

/-! ### The commands -/

theorem State.arbiters.conditionSeen {s : State} (ok : s.arbiters) (sg : Seg) (seen : BusCondition) :
    (s.conditionSeen sg seen).arbiters := by
  have ended := ok.endWithCause sg .downstreamError (Sgc.busError seen) (Sgc.lineCondition_busError seen)
  unfold State.conditionSeen
  split
  case h_1 => exact ok.modSgc sg _ (.inl rfl)
  case h_3 => exact ok.modSgc sg _ (.inr rfl)
  case h_4 => exact ok.modSgc sg _ (.inl rfl)
  case h_5 => exact ok.modSgc sg _ (.inr rfl)
  case h_6 => exact ok.modSgc sg _ (.inl rfl)
  case h_13 => exact ok.modSgc sg _ (.inr rfl)
  case h_14 => exact ok.modSgc sg _ (.inr rfl)
  case h_15 => exact ok.modSgc sg _ (.inr rfl)
  case h_16 => exact ok.modSgc sg _ (.inr rfl)
  case h_2 => exact ok
  case h_11 => exact ok
  case h_12 => exact ok
  all_goals exact ended

theorem State.arbiters.arbitrationLoss {s : State} (ok : s.arbiters) (sg : Seg) (point : LossPoint) :
    (s.arbitrationLoss sg point).arbiters := by
  have ended : ∀ cause, (s.endWithCause sg cause Sgc.lostBus).arbiters := fun cause => ok.endWithCause sg cause _ fun _ => rfl
  unfold State.arbitrationLoss
  simp only
  split
  case h_1 => split; exacts [ended _, ok]
  case h_2 => split; exacts [ended _, ok.modSgc sg _ (.inl rfl)]
  case h_3 => exact ended _
  case h_4 => split; exacts [ended _, ok]
  case h_5 => split; exacts [ended _, ok]
  all_goals exact ok

theorem State.arbiters.stuck {s : State} (ok : s.arbiters) (sg : Seg) (line : BusLine) : (s.stuck sg line).arbiters := by
  cases line <;> unfold State.stuck <;> simp only <;> split
  exacts [ok.stuckDetected sg _, ok, ok.stuckDetected sg _, ok]

theorem State.arbiters.dropNacked {s : State} (ok : s.arbiters) (p : Port) (sg : Seg) : (s.dropNacked p sg).arbiters :=
  (State.collect_moved _ p).arbiters (((ClaimsMoved.modPort s p _).arbiters ok).closeSeg sg)

theorem Sgc.lineCondition_addressDone (a : AckBit) (c : Sgc) : lineCondition (c.addressDone a).line = .available := by
  unfold Sgc.addressDone
  simp only
  split
  · split
    · rfl
    · split <;> rfl
  · split <;> rfl

theorem State.arbiters.addressAcked {s : State} (ok : s.arbiters) (sg : Seg) (a : AckBit) :
    (s.addressAcked sg a).arbiters := by
  have sent := ok.modSgc sg (Sgc.addressDone a) (.inl (Sgc.lineCondition_addressDone a _))
  unfold State.addressAcked
  simp only
  split
  · exact ok
  · split
    · split
      · exact sent
      · unfold State.takeAddressResult
        split
        · exact (ClaimsMoved.modPort _ _ _).arbiters sent
        · split
          · exact (State.collect_moved _ _).arbiters sent
          · exact sent.dropNacked _ sg
    · exact sent

theorem Sgc.lineCondition_byteDone (c : Sgc) : lineCondition c.byteDone.line = .available := by
  unfold Sgc.byteDone
  simp only
  split <;> rfl

theorem State.arbiters.byteAcked {s : State} (ok : s.arbiters) (sg : Seg) (a : AckBit) : (s.byteAcked sg a).arbiters := by
  have sent := ok.modSgc sg Sgc.byteDone (.inl (Sgc.lineCondition_byteDone _))
  unfold State.byteAcked
  simp only
  split
  · exact ok
  · split
    · split
      · exact sent
      · unfold State.takeByteResult
        split
        · exact (ClaimsMoved.modPort _ _ _).arbiters sent
        · split
          · exact (State.collect_moved _ _).arbiters sent
          · exact sent.dropNacked _ sg
    · exact sent

theorem State.arbiters.byteOutcome {t : State} (ok : t.arbiters) (sg : Seg) (line : LineState) (r : ByteOutcome)
    {acked : AckBit → State} (h : ∀ a, (acked a).arbiters) :
    (match r with
      | .ack => acked .ack
      | .nack => acked .nack
      | .lost => if (t.sgc sg).line == line then t.arbitrationLoss sg .bit else t
      | .stuck l => if (t.sgc sg).line == line then t.stuck sg l else t
      | .busError seen => if (t.sgc sg).line == line then t.conditionSeen sg seen else t).arbiters := by
  cases r
  case ack => exact h .ack
  case nack => exact h .nack
  case lost => simp only; split; exacts [ok.arbitrationLoss sg _, ok]
  case stuck l => simp only; split; exacts [ok.stuck sg l, ok]
  case busError seen => simp only; split; exacts [ok.conditionSeen sg seen, ok]

theorem State.arbiters.readByte {s : State} (ok : s.arbiters) (sg : Seg) (b : Byte) : (s.readByte sg b).arbiters := by
  unfold State.readByte
  simp only
  split
  · exact ok
  · split
    · exact ok.modSgc sg _ (.inl rfl)
    · split
      · exact (ClaimsMoved.modPort _ _ _).arbiters (ok.modSgc sg _ (.inl rfl))
      · exact ok.modSgc sg _ (.inl rfl)

theorem State.arbiters.recoverySucceeds {s : State} (ok : s.arbiters) (sg : Seg) : (s.recoverySucceeds sg).arbiters := by
  have recovered := ok.modSgc sg Sgc.recovered (.inl rfl)
  unfold State.recoverySucceeds
  split
  · exact recovered
  · exact (ClaimsMoved.writeRecord _ _ _).arbiters recovered
  · exact ok

theorem State.faultRecords_moved (s : State) (sg : Seg) (line : BusLine) (origin : RecoveryOrigin) :
    ClaimsMoved s (s.faultRecords sg line origin) := by
  cases origin <;>
    exact (ClaimsMoved.writeRecord s _ _).trans (.foldl _ (fun t p => ClaimsMoved.writeRecord t p _) _ _)

theorem State.arbiters.recoveryFails {s : State} (ok : s.arbiters) (sg : Seg) (line : BusLine) :
    (s.recoveryFails sg line).arbiters := by
  unfold State.recoveryFails
  split
  · rename_i recovery _
    have away : s.condition sg ≠ .available := by rw [State.condition, recovery]; exact nofun
    exact (State.faultRecords_moved _ sg line _).arbiters
      (ok.outOfUse sg _ nofun ((ok sg).unavailable away).1)
  · exact ok

theorem Sgc.lineCondition_busFree (c : Sgc) :
    lineCondition c.busFree.line = .available ∨ lineCondition c.busFree.line = lineCondition c.line := by
  unfold Sgc.busFree
  split
  · exact .inl rfl
  · split
    exacts [.inl rfl, .inr rfl]
  · split
    exacts [.inl rfl, .inr rfl]
  · split
    exacts [.inl rfl, .inr rfl]
  all_goals exact .inr rfl

theorem Sgc.lineCondition_repeatStart (d : Dest) (dir : Dir) (c : Sgc) :
    lineCondition (c.repeatStart d dir).line = lineCondition c.line := by
  unfold Sgc.repeatStart
  split
  · rename_i line
    rw [show c.line = .parked by simpa using line]
    rfl
  · rfl

theorem State.arbiters.repeatedStart {s : State} (ok : s.arbiters) (p : Port) (b : AddrByte) :
    (s.repeatedStart p b).arbiters := by
  have taken := (ClaimsMoved.modPort s p PortCtx.takeLimits).arbiters ok
  unfold State.repeatedStart
  simp only
  split
  · exact ((ClaimsMoved.modPort _ p _).trans
      (ClaimsMoved.modSgc _ _ _ (Sgc.lineCondition_repeatStart _ _ _))).arbiters taken
  · exact State.arbiters.closeAll ((ClaimsMoved.modPort _ p _).arbiters taken) p

theorem State.resolveOrHold_moved (s : State) (p : Port) (b : AddrByte) : ClaimsMoved s (s.resolveOrHold p b) := by
  unfold State.resolveOrHold
  split
  · exact .modPort s p _
  · exact State.resolve_moved s p b

theorem State.arbiters.addressByte {s : State} (ok : s.arbiters) (p : Port) (b : AddrByte) : (s.addressByte p b).arbiters := by
  unfold State.addressByte
  simp only
  split
  · exact ok
  · split
    case h_1 => exact (State.resolveOrHold_moved s p b).arbiters ok
    case h_2 => exact ((ClaimsMoved.modPort s p _).trans (State.resolveOrHold_moved _ p b)).arbiters ok
    case h_3 => exact (State.resolve_moved s p b).arbiters ok
    case h_4 => exact (State.resolve_moved s p b).arbiters ok
    case h_5 => exact ok.repeatedStart p b
    case h_6 => exact ok.repeatedStart p b
    case h_7 => exact (ClaimsMoved.modPort s p _).arbiters ok
    all_goals exact ok

theorem Sgc.lineCondition_sendByte (b : Byte) (c : Sgc) : lineCondition (c.sendByte b).line = lineCondition c.line := by
  unfold Sgc.sendByte
  split
  · rename_i h
    simp only [Bool.and_eq_true, beq_iff_eq] at h
    rw [h.1]
    rfl
  · rfl

theorem Sgc.lineCondition_giveAck (a : AckBit) (c : Sgc) : lineCondition (c.giveAck a).line = lineCondition c.line := by
  unfold Sgc.giveAck
  split
  · rename_i line
    rw [line]
    rfl
  · rename_i line
    rw [line]
    rfl
  · rfl

theorem State.dataByte_moved (s : State) (p : Port) (b : Byte) : ClaimsMoved s (s.dataByte p b) := by
  unfold State.dataByte
  simp only
  split
  · exact .refl s
  · split
    case h_1 =>
      exact (ClaimsMoved.modPort s p _).trans
        (.foldl _ (fun t sg => ClaimsMoved.modSgc t sg _ (Sgc.lineCondition_sendByte b _)) _ _)
    case h_2 => exact .modPort s p _
    case h_3 => exact .modPort s p _
    case h_4 => exact .modPort s p _
    all_goals exact .refl s

theorem State.masterAcknowledge_moved (s : State) (p : Port) (a : AckBit) : ClaimsMoved s (s.masterAcknowledge p a) := by
  unfold State.masterAcknowledge
  simp only
  split
  · exact .refl s
  · have given : ClaimsMoved s ((s.ownedBy p).foldl (fun t sg => t.modSgc sg (Sgc.giveAck a)) s) :=
      .foldl _ (fun t sg => ClaimsMoved.modSgc t sg _ (Sgc.lineCondition_giveAck a _)) _ _
    split <;> exact given.trans (.modPort _ p _)

theorem State.arbiters.upstreamStop {s : State} (ok : s.arbiters) (p : Port) : (s.upstreamStop p).arbiters := by
  have updated : ∀ f, (s.modPort p f).arbiters := fun f => (ClaimsMoved.modPort s p f).arbiters ok
  unfold State.upstreamStop
  simp only
  split
  · exact ok
  · split
    case h_2 => exact updated _
    case h_3 => exact updated _
    case h_4 => exact updated _
    case h_5 => exact (updated _).closeAll p
    case h_6 => exact (updated _).closeAll p
    case h_7 => exact updated _
    all_goals exact ok

theorem State.quarantineCheck_moved (s : State) (p : Port) (before : Nat) : ClaimsMoved s (s.quarantineCheck p before) := by
  unfold State.quarantineCheck
  split
  · split
    · exact State.enterQuarantine_moved s p
    · exact .modPort s p _
  · exact .refl s

theorem State.abortPort_moved (s : State) (p : Port) (cause : AbortCause) : ClaimsMoved s (s.abortPort p cause) :=
  (ClaimsMoved.modPort s p _).trans (ClaimsMoved.writeRecord _ p _)

theorem State.arbiters.errorAborts {s : State} (ok : s.arbiters) (p : Port) (seen : BusCondition) (pos : BitPosition) :
    (s.errorAborts p seen pos).arbiters := by
  unfold State.errorAborts
  simp only
  refine State.arbiters.closeAll ?_ p
  have counted := (((ClaimsMoved.modPort s p fun c => (c.countIfClocked pos).countError).trans (State.abortPort_moved _ p .upstreamError)).trans
    (State.quarantineCheck_moved _ p (s.port p).errCount)).arbiters ok
  cases seen
  · exact counted
  · exact (ClaimsMoved.modPort _ p _).arbiters counted

theorem State.errorCounts_moved (s : State) (p : Port) (f : PortCtx → PortCtx) : ClaimsMoved s (s.errorCounts p f) :=
  ((ClaimsMoved.modPort s p _).trans (State.quarantineCheck_moved _ p _)).trans (.modPort _ p f)

theorem State.arbiters.upstreamBusError {s : State} (ok : s.arbiters) (p : Port) (seen : BusCondition) (pos : BitPosition) :
    (s.upstreamBusError p seen pos).arbiters := by
  unfold State.upstreamBusError
  simp only
  split
  · exact ok
  · split
    case h_1 => exact ok.errorAborts p seen pos
    case h_2 => exact ok.errorAborts p seen pos
    case h_3 => exact ok.errorAborts p seen pos
    case h_4 => exact (State.errorCounts_moved s p _).arbiters ok
    case h_5 => exact (State.errorCounts_moved s p _).arbiters ok
    case h_6 => exact (State.errorCounts_moved s p _).arbiters ok
    case h_7 => exact (State.errorCounts_moved s p _).arbiters ok
    all_goals exact ok

theorem State.arbiters.expireAddress {s : State} (ok : s.arbiters) (p : Port) (sg : Option Seg) :
    (s.expireAddress p sg).arbiters :=
  State.arbiters.closeAll (((ClaimsMoved.modPort s p _).trans (ClaimsMoved.writeRecord _ p _)).arbiters ok) p

theorem State.arbiters.expireHold {s : State} (ok : s.arbiters) (p : Port) : (s.expireHold p).arbiters := by
  unfold State.expireHold
  simp only
  split
  case h_1 =>
    unfold State.expireAcquisition
    split
    · exact (ok.withdraw p _).expireAddress p _
    · exact ok.expireAddress p _
  case h_2 =>
    unfold State.withdrawSingle
    split
    · exact (State.refuse_moved _ p _).arbiters (ok.withdraw p _)
    · exact ok
  case h_4 => exact ok.expireAddress p _
  case h_5 => exact ok.expireAddress p _
  all_goals exact ok

theorem State.arbiters.holdExpiry {s : State} (ok : s.arbiters) (p : Port) (crossing : Bool) :
    (s.holdExpiry p crossing).arbiters := by
  unfold State.holdExpiry
  split
  · exact ok
  · split
    · exact (ClaimsMoved.modPort s p _).arbiters ok
    · exact ok.expireHold p

theorem State.arbiters.ownerIdleExpiry {s : State} (ok : s.arbiters) (p : Port) (pos : BitPosition) :
    (s.ownerIdleExpiry p pos).arbiters := by
  unfold State.ownerIdleExpiry
  split
  · exact ok
  · exact State.arbiters.closeAll (((ClaimsMoved.modPort s p _).trans (State.abortPort_moved _ p _)).arbiters ok) p

theorem State.expireLease_moved (s : State) (id : Byte) : ClaimsMoved s (s.expireLease id) := by
  unfold State.expireLease
  split
  · exact .refl s
  · exact .of_same (fun _ => rfl) fun _ => rfl

/-! ### The commands of the Engine -/

theorem State.finishCommand_moved (s : State) (p : Port) (r : Reply) : ClaimsMoved s (s.finishCommand p r) := by
  unfold State.finishCommand
  simp only
  split
  · exact (ClaimsMoved.modPort s p _).trans (State.resolve_moved _ p _)
  · exact .modPort s p _

theorem State.arbiters.takeCommand {s : State} (ok : s.arbiters) (p : Port) (id : CommandId)
    (body : List Byte → State → Answered) (h : ∀ args, (body args s).state.arbiters) :
    (s.takeCommand p id body).arbiters := by
  unfold State.takeCommand
  split
  · exact ok
  · split
    · exact ok
    · split
      · refine (State.finishCommand_moved _ p _).arbiters ?_
        unfold State.checked
        split
        · exact ok
        · split
          · exact ok
          · split
            exacts [ok, h _]
      · exact ok

/-- A command that changes neither a segment record nor a controller. -/
theorem State.arbiters.body {s : State} (ok : s.arbiters) {a : Answered} (hseg : a.state.segs = s.segs)
    (hsgc : a.state.sgcs = s.sgcs) : a.state.arbiters := ok.congr hseg hsgc

theorem State.arbiters.grantLease {s : State} (ok : s.arbiters) (l : Lease) : (s.grantLease l).arbiters := by
  have entered : ({ s with leases := insertLease l s.leases, nextLeaseId := idAfter l.id } : State).arbiters :=
    ok.congr rfl rfl
  exact entered.leaseHandOver l

theorem reserveBody_arbiters {s : State} (ok : s.arbiters) (p : Port) (args : List Byte) :
    (reserveBody p args s).state.arbiters := by
  unfold reserveBody
  split
  · split
    · unfold State.reserve
      split
      · exact ok
      · split
        · exact ok
        · split
          · exact ok.grantLease _
          · exact ok
    · exact ok
  · exact ok

theorem State.arbiters.switchReset {s : State} (ok : s.arbiters) (clocked : List Port) : (s.switchReset clocked).arbiters := by
  have noClaims : s.removeClaims.arbiters := by
    refine ok.filterLists (fun _ => rfl) (fun x => ?_) fun x _ => ?_
    · simp [State.removeClaims, State.seg]
    · simp [State.removeClaims, State.seg]
  have segment : ∀ (t : State) sg, t.arbiters → (t.switchResetSegment sg).arbiters := by
    intro t sg okt
    unfold State.switchResetSegment
    split
    · exact okt.modSgc sg _ (.inr rfl)
    · exact okt.modSgc sg _ (.inr rfl)
    all_goals
      split
      exacts [okt.closeSeg sg, okt]
  have start : ({ s.removeClaims with
      ports := s.removeClaims.ports.mapAll fun q c => c.switchReset (clocked.contains q)
      leases := [], nextLeaseId := 1 } : State).arbiters := noClaims.congr rfl rfl
  exact ((start.foldl segment Seg.all).foldl (fun t p okt => (State.portReleased_moved t p).arbiters okt) Port.all).congr
    rfl rfl

theorem segmentSetBody_arbiters {s : State} (ok : s.arbiters) (args : List Byte) :
    (segmentSetBody args s).state.arbiters := by
  unfold segmentSetBody
  split
  · split
    · split
      · exact ok
      · exact ok.modSgc _ _ (.inr rfl)
    · exact ok
  · exact ok

theorem segmentRecoverBody_arbiters {s : State} (ok : s.arbiters) (p : Port) (args : List Byte) :
    (segmentRecoverBody p args s).state.arbiters := by
  unfold segmentRecoverBody
  split
  · split
    · exact ok
    · split
      · exact ok
      · rename_i free
        simp only [Bool.or_eq_true, not_or, Option.not_isSome_iff_eq_none] at free
        exact ok.outOfUse _ _ nofun free.1
  · exact ok

/-! ### Every command -/

theorem State.deviceReset_arbiters (s : State) (straps : Straps) (n : Nat) :
    ({ s.deviceReset straps with freeCount := n } : State).arbiters := by
  intro x
  have seg : ({ s.deviceReset straps with freeCount := n } : State).seg x = SegRecord.reset := State.seg_reset x
  exact ⟨fun _ => by rw [seg]; rfl, fun _ => by rw [seg]; exact ⟨rfl, rfl⟩⟩

theorem exec_arbiters (c : Instr) (s : State) (ok : s.arbiters) : ∃ t, exec c s = .next t ∧ t.arbiters := by
  have sampled : ∀ low, (s.sampleLines low).arbiters := fun low => (ClaimsMoved.sampleLines s low).arbiters ok
  cases c
  case deviceReset pulse straps =>
    obtain ⟨t, ht, rfl | ⟨n, rfl⟩⟩ := exec_deviceReset pulse straps s
    · exact ⟨_, ht, ok.congr rfl rfl⟩
    · exact ⟨_, ht, s.deviceReset_arbiters straps n⟩
  case addressByte p b low => exact ⟨_, rfl, (sampled low).addressByte p b⟩
  case startFormed sg =>
    refine ⟨_, rfl, ?_⟩
    split
    exacts [ok.modSgc sg _ (.inl rfl), ok]
  case addressResult sg r low =>
    exact ⟨_, rfl, (sampled low).byteOutcome sg .address r fun a => (sampled low).addressAcked sg a⟩
  case dataByte p b => exact ⟨_, rfl, (s.dataByte_moved p b).arbiters ok⟩
  case byteResult sg r low =>
    exact ⟨_, rfl, (sampled low).byteOutcome sg .write r fun a => (sampled low).byteAcked sg a⟩
  case readByte sg b => exact ⟨_, rfl, ok.readByte sg b⟩
  case masterAcknowledge p a => exact ⟨_, rfl, (s.masterAcknowledge_moved p a).arbiters ok⟩
  case upstreamStop p low => exact ⟨_, rfl, (sampled low).upstreamStop p⟩
  case upstreamBusError p seen pos low => exact ⟨_, rfl, (sampled low).upstreamBusError p seen pos⟩
  case mgmtDataByte p b =>
    refine ⟨_, rfl, ?_⟩
    split
    exacts [(ClaimsMoved.modPort s p _).arbiters ok, ok]
  case managementWriteEnd p seen =>
    refine ⟨_, rfl, ?_⟩
    split
    exacts [(ClaimsMoved.modPort s p _).arbiters ok, ok]
  case mgmtReadAcknowledge p a =>
    refine ⟨_, rfl, ?_⟩
    split
    exacts [(ClaimsMoved.modPort s p _).arbiters ok, ok]
  case unknownCommand p low =>
    refine ⟨_, rfl, ?_⟩
    unfold State.unknownCommand
    split
    · exact sampled low
    · split
      exacts [(State.finishCommand_moved _ p _).arbiters (sampled low), sampled low]
  case status p low => exact ⟨_, rfl, (sampled low).takeCommand p _ _ fun _ => sampled low⟩
  case portSet p low =>
    refine ⟨_, rfl, (sampled low).takeCommand p _ _ fun args => ?_⟩
    unfold portSetBody
    split
    · split
      exacts [(sampled low).congr rfl rfl, sampled low]
    · exact sampled low
  case switchReset p found => exact ⟨_, rfl, (sampled found.low).takeCommand p _ _ fun _ => (sampled _).switchReset _⟩
  case reserve p low => exact ⟨_, rfl, (sampled low).takeCommand p _ _ fun args => reserveBody_arbiters (sampled low) p args⟩
  case renew p low =>
    refine ⟨_, rfl, (sampled low).takeCommand p _ _ fun args => (sampled low).body ?_ ?_⟩ <;>
      unfold renewBody <;> repeat' (first | rfl | split)
  case release p low =>
    refine ⟨_, rfl, (sampled low).takeCommand p _ _ fun args => (sampled low).body ?_ ?_⟩ <;>
      unfold releaseBody <;> repeat' (first | rfl | split)
  case revoke p low =>
    refine ⟨_, rfl, (sampled low).takeCommand p _ _ fun args => (sampled low).body ?_ ?_⟩ <;>
      unfold revokeBody <;> repeat' (first | rfl | split)
  case leaseList p low => exact ⟨_, rfl, (sampled low).takeCommand p _ _ fun _ => sampled low⟩
  case segmentSet p low => exact ⟨_, rfl, (sampled low).takeCommand p _ _ fun args => segmentSetBody_arbiters (sampled low) args⟩
  case segmentRecover p low =>
    exact ⟨_, rfl, (sampled low).takeCommand p _ _ fun args => segmentRecoverBody_arbiters (sampled low) p args⟩
  case mapSet p low =>
    refine ⟨_, rfl, (sampled low).takeCommand p _ _ fun args => (sampled low).body ?_ ?_⟩ <;>
      unfold mapSetBody State.mapSet <;> simp only <;> repeat' (first | rfl | split)
  case mapClear p low =>
    refine ⟨_, rfl, (sampled low).takeCommand p _ _ fun args => (sampled low).body ?_ ?_⟩ <;>
      unfold mapClearBody <;> repeat' (first | rfl | split)
  case mapRead p low =>
    refine ⟨_, rfl, (sampled low).takeCommand p _ _ fun args => (sampled low).body ?_ ?_⟩ <;>
      unfold mapReadBody <;> repeat' (first | rfl | split)
  case portRestore p low =>
    refine ⟨_, rfl, (sampled low).takeCommand p _ _ fun args => (sampled low).body ?_ ?_⟩ <;>
      unfold portRestoreBody <;> repeat' (first | rfl | split)
  case logRead p low =>
    refine ⟨_, rfl, (sampled low).takeCommand p _ _ fun args => (sampled low).body ?_ ?_⟩ <;>
      unfold logReadBody <;> repeat' (first | rfl | split)
  case holdExpiry p found => exact ⟨_, rfl, (sampled found.low).holdExpiry p found.crossing⟩
  case ownerIdleExpiry p pos low => exact ⟨_, rfl, (sampled low).ownerIdleExpiry p pos⟩
  case leaseExpiry id =>
    refine ⟨_, rfl, ?_⟩
    unfold State.leaseExpiry
    split
    · split
      exacts [(s.expireLease_moved id).arbiters ok, ok]
    · exact ok
  case stuckScl sg low => exact ⟨_, rfl, (sampled low).stuck sg .scl⟩
  case stuckSda sg low => exact ⟨_, rfl, (sampled low).stuck sg .sda⟩
  case recoverySuccess sg seen =>
    refine ⟨_, rfl, ?_⟩
    split
    exacts [ok.recoverySucceeds sg, ok, ok]
  case recoveryFailure sg seen =>
    refine ⟨_, rfl, ?_⟩
    split
    exacts [ok.recoveryFails sg _, ok, ok]
  case busFreeCheck sg => exact ⟨_, rfl, ok.modSgc sg _ (Sgc.lineCondition_busFree _)⟩
  case startSeen sg low => exact ⟨_, rfl, (sampled low).conditionSeen sg .start⟩
  case stopSeen sg low => exact ⟨_, rfl, (sampled low).conditionSeen sg .stop⟩
  case arbitrationLoss sg point low => exact ⟨_, rfl, (sampled low).arbitrationLoss sg point⟩
  case stopDone sg low =>
    refine ⟨_, rfl, ?_⟩
    split
    exacts [((sampled low).modSgc sg _ (.inl rfl)).releaseSeg sg _, sampled low]

theorem State.millisecond_arbiters {s : State} (ok : s.arbiters) : s.millisecond.arbiters :=
  ((ClaimsMoved.foldl _ State.expireLease_moved _ s).arbiters ok).congr rfl rfl

/-- Settles O57: claims and their answers leave each record in form, a release grants the head claim of an AVAILABLE
segment, and a segment that goes out of use is flushed before its owner leaves. -/
theorem arbiterInvariantIsKept : Obligations.ArbiterInvariantIsKept := by
  intro s t ok h
  unfold step at h
  split at h
  · obtain rfl := Host.Outcome.next.inj h
    exact State.millisecond_arbiters ok
  · rename_i c queue _
    obtain ⟨u, hu, oku⟩ := exec_arbiters c { s with pending := queue } (State.arbiters.congr ok rfl rfl)
    obtain rfl := Host.Outcome.next.inj (hu.symm.trans h)
    exact oku

end Sys2Proof.Machine
end

section
/-! Equality of states part by part; the step, the millisecond and the device reset (R2, R26, R27, R171). -/

namespace Sys2Proof.Machine

/-! ### Equality part by part -/

theorem State.ext_parts {s t : State} (port : ∀ p, s.port p = t.port p) (log : ∀ p, s.log p = t.log p)
    (seg : ∀ x, s.seg x = t.seg x) (sgc : ∀ x, s.sgc x = t.sgc x) (leases : s.leases = t.leases)
    (counter : s.nextLeaseId = t.nextLeaseId) (map : s.map = t.map) (straps : s.straps = t.straps)
    (linesLow : s.linesLow = t.linesLow) (freeCount : s.freeCount = t.freeCount) (pending : s.pending = t.pending) :
    s = t := by
  cases s; cases t
  simp only [State.mk.injEq]
  exact ⟨PerPort.ext_get port, PerPort.ext_get log, PerSeg.ext_get seg, PerSeg.ext_get sgc, leases, counter, map, straps,
    linesLow, freeCount, pending⟩

@[simp] theorem State.port_writeRecord (s : State) (p : Port) (b : RecordBody) (q : Port) :
    (s.writeRecord p b).port q = s.port q := rfl
@[simp] theorem State.seg_writeRecord (s : State) (p : Port) (b : RecordBody) (x : Seg) :
    (s.writeRecord p b).seg x = s.seg x := rfl
@[simp] theorem State.sgc_writeRecord (s : State) (p : Port) (b : RecordBody) (x : Seg) :
    (s.writeRecord p b).sgc x = s.sgc x := rfl
@[simp] theorem State.leases_writeRecord (s : State) (p : Port) (b : RecordBody) :
    (s.writeRecord p b).leases = s.leases := rfl
@[simp] theorem State.straps_writeRecord (s : State) (p : Port) (b : RecordBody) :
    (s.writeRecord p b).straps = s.straps := rfl
@[simp] theorem State.linesLow_writeRecord (s : State) (p : Port) (b : RecordBody) :
    (s.writeRecord p b).linesLow = s.linesLow := rfl
@[simp] theorem State.log_writeRecord_same (s : State) (p : Port) (b : RecordBody) :
    (s.writeRecord p b).log p = Log.enter (s.port p).mask b (s.log p) := by simp [State.writeRecord]
@[simp] theorem State.log_writeRecord_ne (s : State) (p : Port) (b : RecordBody) {q : Port} (h : q ≠ p) :
    (s.writeRecord p b).log q = s.log q := by simp [State.writeRecord, h]

/-- A port's update commutes with a record, if it leaves the mask. -/
theorem State.modPort_writeRecord (s : State) (p q : Port) (f : PortCtx → PortCtx) (b : RecordBody)
    (h : (f (s.port p)).mask = (s.port p).mask) :
    (s.writeRecord q b).modPort p f = (s.modPort p f).writeRecord q b := by
  have mask : ((s.modPort p f).port q).mask = (s.port q).mask := by
    by_cases e : q = p
    · subst e; rw [State.port_modPort_same, h]
    · rw [State.port_modPort_ne _ _ _ e]
  simp only [State.writeRecord, mask]
  rfl

/-! ### One step, and the millisecond -/

/-- Settles O1. -/
theorem stepCarriesOutTheFrontCommand : Obligations.StepCarriesOutTheFrontCommand := fun _ _ _ => rfl

/-- R26: with no lease due the millisecond only counts. -/
theorem State.millisecond_noneDue {s : State} (h : ∀ l ∈ s.leases, l.due = false) :
    s.millisecond = s.setLeases (s.leases.map Lease.countDown) := by
  have none : s.leases.filter (·.due) = [] := List.filter_eq_nil_iff.mpr fun l hl => by simp [h l hl]
  simp [State.millisecond, none]

/-- A list filtered down to one of its elements, which occurs in it once by its id. -/
theorem filter_due_eq_map_id {ls : List Lease} {l : Lease} (hl : l ∈ ls) (due : l.due = true)
    (alone : ∀ m ∈ ls, m ≠ l → m.id ≠ l.id ∧ m.due = false) :
    ∃ n, (ls.filter (·.due)).map (·.id) = List.replicate (n + 1) l.id := by
  have all : ∀ m ∈ ls.filter (·.due), m.id = l.id := by
    intro m hm
    obtain ⟨mem, dueM⟩ := List.mem_filter.mp hm
    by_contra other
    have := (alone m mem fun e => other (e ▸ rfl)).2
    rw [this] at dueM
    contradiction
  have pos : 0 < ((ls.filter (·.due)).map (·.id)).length := by
    rw [List.length_map]
    exact List.length_pos_of_mem (List.mem_filter.mpr ⟨hl, due⟩)
  refine ⟨((ls.filter (·.due)).map (·.id)).length - 1, ?_⟩
  rw [Nat.sub_add_cancel pos, List.eq_replicate_iff]
  refine ⟨rfl, fun id hid => ?_⟩
  obtain ⟨m, hm, rfl⟩ := List.mem_map.mp hid
  exact all m hm

/-- R27: the lease an id finds is removed with its record. -/
theorem State.expireLease_some {s : State} {id : Byte} {l : Lease} (h : s.leaseOf id = some l) :
    s.expireLease id =
      (s.setLeases (s.leases.filter fun m => m.id != id)).writeRecord l.holder (leaseRecord .leaseExpired l) := by
  simp [State.expireLease, h, removeLease]

theorem State.expireLease_none {s : State} {id : Byte} (h : ∀ l ∈ s.leases, l.id ≠ id) : s.expireLease id = s := by
  simp [State.expireLease, State.leaseOf_eq_none h]

/-- An id expires once: the second expiry finds no lease. -/
theorem State.foldl_expireLease_replicate (s : State) (id : Byte) (n : Nat) :
    (List.replicate (n + 1) id).foldl State.expireLease s = s.expireLease id := by
  have gone : ∀ l ∈ (s.expireLease id).leases, l.id ≠ id := by
    cases h : s.leaseOf id with
    | none =>
      rw [State.expireLease_none (by simpa [State.leaseOf] using h)]
      simpa [State.leaseOf] using h
    | some l =>
      rw [State.expireLease_some h]
      simp
  rw [List.replicate_succ, List.foldl_cons]
  induction n with
  | zero => rfl
  | succ n ih => rw [List.replicate_succ, List.foldl_cons, State.expireLease_none gone, ih]

/-- Settles O2: with no lease due each count goes down; with one due, its expiry comes first. -/
theorem emptyQueuePassesAMillisecond : Obligations.EmptyQueuePassesAMillisecond := by
  intro s empty counted
  have passed : step s = .next s.millisecond := by unfold step; rw [empty]
  have count : counted = Lease.countDown := rfl
  refine ⟨fun noneDue => ?_, fun l hl due alone => ?_⟩
  · rw [passed, State.millisecond_noneDue noneDue, count]
    rfl
  · obtain ⟨n, ids⟩ := filter_due_eq_map_id hl due alone
    have found : s.leaseOf l.id = some l := by
      unfold State.leaseOf
      obtain ⟨m, hm⟩ : ∃ m, s.leases.find? (·.id == l.id) = some m :=
        Option.isSome_iff_exists.mp (List.find?_isSome.mpr ⟨l, hl, by simp⟩)
      have same : m.id = l.id := by simpa using List.find?_some hm
      have : m = l := by
        by_contra other
        exact (alone m (List.mem_of_find?_eq_some hm) other).1 same
      rw [hm, this]
    rw [passed, State.millisecond, ids, State.foldl_expireLease_replicate, State.expireLease_some found, count]
    rfl

/-- Settles O36: the lease of an id is the only one with it; its expiry is taken if it is due. -/
theorem leaseExpiryRemovesTheLease : Obligations.LeaseExpiryRemovesTheLease := by
  intro s id
  refine ⟨?_, fun absent => ?_⟩
  · rintro l hl rfl ok
    have found := State.leaseOf_of_mem ok.ascending hl
    refine ⟨fun due => ?_, fun notDue => ?_⟩
    · have expired : s.leaseExpiry l.id = s.expireLease l.id := by simp [State.leaseExpiry, found, due]
      exact congrArg Host.Outcome.next (expired.trans (State.expireLease_some found))
    · exact congrArg Host.Outcome.next (State.leaseExpiry_notDue s _ fun m hm => by
        obtain rfl := Option.some.inj (found.symm.trans hm)
        exact notDue)
  · exact congrArg Host.Outcome.next (State.leaseExpiry_notDue s id fun m hm => by
      rw [State.leaseOf_eq_none absent] at hm
      contradiction)

/-! ### The device reset -/

/-- Settles O4: the two pulses, then the values read off the reset state port by port and segment by segment. -/
theorem deviceResetGivesEveryValue : Obligations.DeviceResetGivesEveryValue := by
  refine ⟨fun straps s => ⟨rfl, _, rfl, ?_⟩, fun p => ?_, fun sg => ?_, fun p => ?_, rfl⟩
  · split
    · exact .inr rfl
    · exact .inl rfl
  · rw [State.port_reset]
    decide
  · rw [State.seg_reset, State.sgc_reset]
    decide
  · rw [State.log_reset]
    rfl

/-- Settles O60: every table is empty, every port, log and segment has its reset value. -/
theorem invariantsHoldAfterDeviceReset : Obligations.InvariantsHoldAfterDeviceReset := by
  intro straps s
  obtain ⟨map, leases, log, port, sgc, reply⟩ := State.reset.deviceReset_ok straps 0
  have segs : ∀ sg, s.seg sg = SegRecord.reset := State.seg_reset
  have ports : ∀ p, s.port p = PortCtx.reset := State.port_reset
  have marks : ∀ p sg, s.markOf p sg = none := fun p sg => by rw [State.markOf, ports]; rfl
  have owner : ∀ sg, (s.seg sg).owner = none := fun sg => by rw [segs]; rfl
  have list : ∀ sg, (s.seg sg).waitList = [] := fun sg => by rw [segs]; rfl
  refine ⟨map, leases, log, State.reset.deviceReset_arbiters straps 0, ?_, port, reply, sgc⟩
  constructor
  case claimPhase => intro sg c hc; simp [list] at hc
  case claimOnce => intro p; simp [list]
  case withdrawn => intro _ _ _ sg c hc; simp [list] at hc
  case singleClaim => intro sg p a hc; simp [list] at hc
  case broadcastClaim => intro sg p hc; simp [list] at hc
  case ownPhase => intro sg o h; simp [owner] at h
  case singleOwner => intro sg p h; simp [owner] at h
  case broadcastOwner => intro sg p h; simp [owner] at h
  case ownedMark => intro sg p h; simp [marks] at h
  case flagged => intro sg p h; simp [marks, owner] at h
  case acquiring => intro sg o h; simp [owner] at h
  case unowned =>
    intro sg _
    have : s.sgc sg = Sgc.reset := State.sgc_reset sg
    rw [this]
    decide
  case closes => intro sg o h; simp [owner] at h
  case releasePhase => intro p h; rw [ports] at h; exact absurd rfl h
  case idlePhase => intro p h; rw [ports] at h; contradiction
  case heldPhase => intro p h; rw [ports] at h; exact absurd rfl h

end Sys2Proof.Machine
end

section
/-! An address byte taken from a fresh port (R46 to R50, R102 to R105): what the steps of Table 3-3 decide, and what
each decision does. -/

namespace Sys2Proof.Machine

/-! ### A fresh port resolves the byte at once -/

theorem PortCtx.endWrite_start_empty {c : PortCtx} (h : c.message.bytes = []) : c.endWrite .start = c := by
  simp [PortCtx.endWrite, h]

theorem State.resolveOrHold_noMessage {s : State} {p : Port} (h : (s.port p).handed = none) (b : AddrByte) :
    s.resolveOrHold p b = s.resolve p b := by
  simp [State.resolveOrHold, h]

/-- R46, R132, R156, R160: from a fresh port the address byte is resolved from step 1. -/
theorem State.addressByte_fresh {s : State} {p : Port} (h : (s.port p).fresh) (b : AddrByte) :
    s.addressByte p b = s.resolve p b := by
  obtain ⟨phase, clock, message⟩ := h
  unfold State.addressByte
  rcases phase with phase | phase | phase | ⟨phase, empty⟩
  · simp [clock, phase, State.resolveOrHold_noMessage message]
  · simp [clock, phase]
  · simp [clock, phase]
  · have unchanged : s.modPort p (PortCtx.endWrite .start) = s :=
      State.modPort_self s p _ (PortCtx.endWrite_start_empty empty)
    simp [clock, phase, unchanged, State.resolveOrHold_noMessage message]

theorem exec_addressByte_fresh {s : State} {p : Port} (h : (s.port p).fresh) (b : AddrByte) (low : List Seg) :
    exec (.addressByte p b low) s = .next ((s.sampleLines low).resolve p b) :=
  congrArg Host.Outcome.next (State.addressByte_fresh (s := s.sampleLines low) h b)

/-! ### The steps of Table 3-3 -/

/-- What resolving an address byte does first to the port: both limits are taken (R45). -/
def PortCtx.resolving (c : PortCtx) : PortCtx := { c.takeLimits with heldAddr := none, readPos := none, out := none }

/-- The steps of Table 3-3 look at the quarantine flag, the tables and the conditions alone. -/
theorem State.resolution_congr {s t : State} {p : Port} (hq : (t.port p).quarantined = (s.port p).quarantined)
    (hst : t.straps = s.straps) (hm : t.map = s.map) (hl : t.leases = s.leases)
    (hc : ∀ x, t.condition x = s.condition x) (b : AddrByte) : t.resolution p b = s.resolution p b := by
  simp only [State.resolution, State.coveringLease, hq, hst, hm, hl, hc]

theorem State.resolution_resolving (s : State) (p : Port) (b : AddrByte) :
    (s.modPort p PortCtx.resolving).resolution p b = s.resolution p b :=
  State.resolution_congr (s := s) (t := s.modPort p PortCtx.resolving)
    (by rw [State.port_modPort_same, PortCtx.resolving, PortCtx.takeLimits]) rfl rfl rfl (fun _ => rfl) b

theorem State.resolution_sampleLines (s : State) (low : List Seg) (p : Port) (b : AddrByte) :
    (s.sampleLines low).resolution p b = s.resolution p b := rfl

/-- R47: an address byte resolved, by what the steps decide. -/
theorem State.resolve_eq (s : State) (p : Port) (b : AddrByte) :
    s.resolve p b = match s.resolution p b with
      | .silentNack => (s.modPort p PortCtx.resolving).modPort p PortCtx.refused
      | .broadcast => (s.modPort p PortCtx.resolving).formBroadcast p
      | .management dir => (s.modPort p PortCtx.resolving).modPort p (PortCtx.enterManagement dir)
      | .refused why sg => (s.modPort p PortCtx.resolving).refuse p (refusalRecord why (some b.addr) (some sg))
      | .route r => (s.modPort p PortCtx.resolving).claimSingle p r := by
  rw [← State.resolution_resolving s p b]
  rfl

theorem PortCtx.refused_resolving (c : PortCtx) : c.resolving.refused = c.addressNacked := rfl

/-- R46, R48: a resolved byte that is refused leaves the port as addressNacked says. -/
theorem State.modPort_resolving_refused (s : State) (p : Port) :
    (s.modPort p PortCtx.resolving).modPort p PortCtx.refused = s.modPort p PortCtx.addressNacked := by
  rw [State.modPort_modPort]
  exact State.modPort_congr s p _ _ (PortCtx.refused_resolving _)

/-- The management address is not the general call. -/
theorem mgmtAddress_ne_zero (st : Straps) : mgmtAddress st ≠ 0 := by
  unfold mgmtAddress
  split <;> decide

/-- Step 1: a quarantined port's address other than the management address. -/
theorem State.resolution_quarantined {s : State} {p : Port} {b : AddrByte} (hq : (s.port p).quarantined = true)
    (hb : b.addr ≠ mgmtAddress s.straps) : s.resolution p b = .silentNack := by
  simp [State.resolution, hq, hb]

/-- Step 2: the general call. -/
theorem State.resolution_generalCall {s : State} {p : Port} (hq : (s.port p).quarantined = false) :
    s.resolution p ⟨0, .write⟩ = .broadcast := by simp [State.resolution, hq]

theorem State.resolution_generalCall_read {s : State} {p : Port} {b : AddrByte} (ha : b.addr = 0) (hd : b.dir = .read) :
    s.resolution p b = .silentNack := by
  simp [State.resolution, ha, hd]

/-- Step 3: the management address, for every port. -/
theorem State.resolution_management {s : State} {p : Port} {b : AddrByte} (h : b.addr = mgmtAddress s.straps) :
    s.resolution p b = .management b.dir := by
  unfold State.resolution
  rw [if_neg (by simp [h]), if_neg (by simpa [h] using mgmtAddress_ne_zero s.straps), if_pos (by simp [h])]

/-- Steps 4 to 7: any other address goes to the map. -/
theorem State.resolution_lookup {s : State} {p : Port} {b : AddrByte} (hq : (s.port p).quarantined = false)
    (hz : b.addr ≠ 0) (hm : b.addr ≠ mgmtAddress s.straps) :
    s.resolution p b = match lookup s.map p b with
      | .noEntry => .silentNack
      | .portExcluded => .silentNack
      | .directionDenied sg => .refused .accessDenied sg
      | .route sg d =>
        match s.coveringLease p sg (.device d) with
        | some l => .refused (.reservedElsewhere l.id) sg
        | none =>
          if s.condition sg != .available then .refused .segmentUnavailable sg else .route ⟨b.addr, sg, d, b.dir⟩ := by
  unfold State.resolution
  exact ((if_neg (by simp [hq])).trans ((if_neg (by simpa using hz)).trans (if_neg (by simpa using hm)))).trans rfl

/-- Step 4: no entry of the map leads the port anywhere. -/
theorem State.resolution_noEntry {s : State} {p : Port} {b : AddrByte} (hq : (s.port p).quarantined = false)
    (hz : b.addr ≠ 0) (hm : b.addr ≠ mgmtAddress s.straps)
    (none : ∀ e ∈ s.map, e.visible = b.addr → e.ports.get p = false) : s.resolution p b = .silentNack := by
  rw [State.resolution_lookup hq hz hm]
  unfold lookup
  split
  · rfl
  · rfl
  · rename_i found
    split at found
    · contradiction
    · rename_i e he
      have excluded := none e (List.mem_of_find?_eq_some he) (by simpa using List.find?_some he)
      simp [excluded] at found
  · rename_i found
    split at found
    · contradiction
    · rename_i e he
      have excluded := none e (List.mem_of_find?_eq_some he) (by simpa using List.find?_some he)
      simp [excluded] at found

/-- Settles O6: each of the three cases decides for the silent NACK. -/
theorem unansweredAddressIsSilentlyNacked : Obligations.UnansweredAddressIsSilentlyNacked := by
  intro s p b low fresh other why
  have silent : s.resolution p b = .silentNack := by
    rcases why with quarantined | ⟨zero, read⟩ | ⟨notZero, none⟩
    · exact State.resolution_quarantined quarantined other
    · exact State.resolution_generalCall_read zero read
    · cases hq : (s.port p).quarantined with
      | true => exact State.resolution_quarantined hq other
      | false => exact State.resolution_noEntry hq notZero other none
  rw [exec_addressByte_fresh fresh, State.resolve_eq, State.resolution_sampleLines, silent]
  exact congrArg Host.Outcome.next (State.modPort_resolving_refused _ p)

/-- Settles O10. -/
theorem managementAddressIsAcked : Obligations.ManagementAddressIsAcked := by
  intro s p b low fresh address
  have decided := State.resolution_management (p := p) address
  rw [exec_addressByte_fresh fresh, State.resolve_eq, State.resolution_sampleLines, decided]
  constructor
  all_goals
    intro dir
    simp only [dir, State.modPort_modPort]
    exact congrArg Host.Outcome.next (State.modPort_congr _ p _ _ rfl)

/-! ### An entry of the map and the leases on it -/

/-- R100: the entry with an address is the one the map finds. -/
theorem MapOk.find {s : State} (ok : MapOk s) {e : RouteEntry} (he : e ∈ s.map) :
    s.map.find? (·.visible == e.visible) = some e := by
  have asc := ok.ascending
  generalize s.map = m at he asc
  induction m with
  | nil => exact absurd he List.not_mem_nil
  | cons x rest ih =>
    obtain ⟨hx, hrest⟩ := List.pairwise_cons.mp asc
    rcases List.mem_cons.mp he with rfl | he
    · simp
    · have other : (x.visible == e.visible) = false := beq_false_of_ne fun h => by
        have := hx e he
        rw [h] at this
        omega
      rw [List.find?_cons, other]
      exact ih he hrest

theorem MapOk.lookup_eq {s : State} (ok : MapOk s) {e : RouteEntry} {p : Port} {b : AddrByte} (he : e ∈ s.map)
    (hv : e.visible = b.addr) (hp : e.ports.get p = true) :
    lookup s.map p b = if e.access.allows b.dir then .route e.seg e.downstream else .directionDenied e.seg := by
  have found := ok.find he
  rw [hv] at found
  cases ha : e.access.allows b.dir <;> simp [lookup, found, hp, ha]

/-- R99: an entry's address is neither the general call nor the management address. -/
theorem MapOk.ordinary {s : State} (ok : MapOk s) {e : RouteEntry} {b : AddrByte} (he : e ∈ s.map)
    (hv : e.visible = b.addr) : b.addr ≠ 0 ∧ b.addr ≠ mgmtAddress s.straps := by
  obtain ⟨visible, notManagement, _⟩ := ok.entries e he
  refine ⟨fun zero => ?_, hv ▸ notManagement⟩
  have : 8 ≤ e.visible.toNat := visible.1
  rw [hv, zero] at this
  contradiction

/-- R29: two leases that cover one claim overlap. -/
theorem Lease.overlaps_of_covers {l m : Lease} {sg : Seg} {d : Dest} (hl : l.covers sg d = true)
    (hm : m.covers sg d = true) (hd : d ≠ .generalCall) : l.overlaps m.seg m.target = true := by
  cases d with
  | generalCall => exact absurd rfl hd
  | device a =>
    simp only [Lease.covers, Bool.and_eq_true, beq_iff_eq] at hl hm
    obtain ⟨rfl, hl⟩ := hl
    obtain ⟨hseg, hm⟩ := hm
    cases ht : l.target <;> cases hu : m.target <;> simp_all [Lease.overlaps]

/-- R23: of a table without overlap one lease of another port at most covers a device. -/
theorem LeaseTableOk.coveringLease_eq {s : State} (ok : LeaseTableOk s) {p : Port} {sg : Seg} {a : Addr} {l : Lease}
    (hl : l ∈ s.leases) (hp : l.holder ≠ p) (hc : l.covers sg (.device a) = true) :
    s.coveringLease p sg (.device a) = some l := by
  have apart := ok.apart
  unfold State.coveringLease
  generalize s.leases = ls at hl apart
  induction ls with
  | nil => exact absurd hl List.not_mem_nil
  | cons x rest ih =>
    obtain ⟨hx, hrest⟩ := List.pairwise_cons.mp apart
    rcases List.mem_cons.mp hl with rfl | hl
    · simp [hp, hc]
    · have noCover : x.covers sg (.device a) = false := Bool.eq_false_iff.mpr fun cx => by
        have := hx l hl
        rw [Lease.overlaps_of_covers cx hc nofun] at this
        contradiction
      rw [List.find?_cons, noCover, Bool.and_false]
      exact ih hl hrest

theorem State.leads.coveringLease {s : State} {p : Port} {b : AddrByte} {e : RouteEntry} (h : s.leads p b e) :
    s.coveringLease p e.seg (.device e.downstream) = none := by
  simp only [State.coveringLease, List.find?_eq_none, Bool.and_eq_true, bne_iff_ne, not_and, Bool.not_eq_true]
  exact h.unleased

theorem State.leads.allows {s : State} {p : Port} {b : AddrByte} {e : RouteEntry} (h : s.leads p b e) :
    e.access.allows b.dir = true := h.access ▸ by cases b.dir <;> rfl

/-- Steps 4 to 7 for an entry that leads the port to a segment. -/
theorem State.leads.resolution {s : State} {p : Port} {b : AddrByte} {e : RouteEntry} (h : s.leads p b e)
    (ok : MapOk s) (hq : (s.port p).quarantined = false) :
    s.resolution p b =
      if s.condition e.seg != .available then .refused .segmentUnavailable e.seg
      else .route ⟨b.addr, e.seg, e.downstream, b.dir⟩ := by
  obtain ⟨hz, hm⟩ := ok.ordinary h.present h.visible
  rw [State.resolution_lookup hq hz hm, ok.lookup_eq h.present h.visible h.port, h.allows, if_pos rfl]
  simp only [h.coveringLease]

/-! ### Refusals -/

/-- R48: a resolved byte that is refused with its record. -/
theorem State.refuse_resolving (s : State) (p : Port) (r : RecordBody) :
    (s.modPort p PortCtx.resolving).refuse p r = (s.modPort p PortCtx.addressNacked).writeRecord p r := by
  rw [State.refuse, State.modPort_resolving_refused]

theorem exec_addressByte_refused {s : State} {p : Port} {b : AddrByte} (fresh : (s.port p).fresh) {why : RefusalReason}
    {sg : Seg} (h : s.resolution p b = .refused why sg) (low : List Seg) :
    exec (.addressByte p b low) s =
      .next (((s.sampleLines low).modPort p PortCtx.addressNacked).writeRecord p
        (refusalRecord why (some b.addr) (some sg))) := by
  rw [exec_addressByte_fresh fresh, State.resolve_eq, State.resolution_sampleLines, h]
  exact congrArg Host.Outcome.next (State.refuse_resolving _ p _)

/-- Settles O7: steps 5, 6 and 7 decide in this order, each for its refusal. -/
theorem refusedAddressLeavesOneRecord : Obligations.RefusedAddressLeavesOneRecord := by
  intro s p b low e fresh free map leases he hv hp given
  obtain ⟨hz, hm⟩ := map.ordinary he hv
  have looked := State.resolution_lookup free hz hm
  rw [map.lookup_eq he hv hp] at looked
  refine ⟨fun denied => ?_, fun allowed l hl other covers => ?_, fun leads cond => ?_⟩
  · rw [denied] at looked
    exact exec_addressByte_refused fresh looked low
  · rw [if_pos allowed] at looked
    simp only [leases.coveringLease_eq hl other covers] at looked
    exact exec_addressByte_refused fresh looked low
  · have decided := leads.resolution map free
    rw [if_pos (by simpa using cond)] at decided
    exact exec_addressByte_refused fresh decided low

/-! ### Claims -/

/-- A claim just made has the port in CLAIM with its route (R49). -/
def PortCtx.claiming (r : Route) (c : PortCtx) : PortCtx :=
  { c.startHold with phase := .claim, route := some r, bset := none, bytesMoved := 0, abortReported := false
                     refusalLeft := false, withdrawal := none, sclHeld := true }

theorem State.arrival_congr {s t : State} (hl : t.leases = s.leases) {sg : Seg} (hc : t.condition sg = s.condition sg)
    (ho : (t.seg sg).owner = (s.seg sg).owner) (p : Port) (d : Dest) : t.arrival p sg d = s.arrival p sg d := by
  simp only [State.arrival, State.coveringLease, hl, hc, ho]

/-- R49, R8: a claim made, by what the Arbiter answers. -/
theorem State.claimSingle_eq (s : State) (p : Port) (r : Route) :
    s.claimSingle p r = match s.arrival p r.seg (.device r.downstream) with
      | .refused why =>
        (s.modPort p (PortCtx.claiming r)).refuse p (refusalRecord why (some r.visible) (some r.seg))
      | .granted => ((s.modPort p (PortCtx.claiming r)).setOwner p r.seg (.device r.downstream)).openSingle p
      | .queued => (s.modPort p (PortCtx.claiming r)).enqueueClaim p r.seg (.device r.downstream) := by
  have same : (s.modPort p (PortCtx.claiming r)).arrival p r.seg (.device r.downstream) =
      s.arrival p r.seg (.device r.downstream) := State.arrival_congr rfl rfl rfl p _
  rw [← same]
  rfl

theorem State.arrival_eq_granted {s : State} {p : Port} {sg : Seg} {d : Dest} (hl : s.coveringLease p sg d = none)
    (hc : s.condition sg = .available) (ho : (s.seg sg).owner = none) : s.arrival p sg d = .granted := by
  simp [State.arrival, hl, hc, ho]

theorem State.arrival_eq_queued {s : State} {p : Port} {sg : Seg} {d : Dest} {o : Owner}
    (hl : s.coveringLease p sg d = none) (hc : s.condition sg = .available) (ho : (s.seg sg).owner = some o) :
    s.arrival p sg d = .queued := by
  simp [State.arrival, hl, hc, ho]

/-- R50: a granted SINGLE claim with no withdrawal on its way begins on the route's segment. -/
theorem State.openSingle_route {s : State} {p : Port} {r : Route} (hw : (s.port p).withdrawal = none)
    (hr : (s.port p).route = some r) :
    s.openSingle p =
      (s.modPort p fun c => { c with phase := .opening }).beginOn r.seg (.device r.downstream) r.dir := by
  simp [State.openSingle, hw, hr]

/-- R76: a begin on an IDLE segment whose lines are high, on one with a line low, and on one with foreign traffic. -/
theorem Sgc.beginAddress_idle {c : Sgc} (h : c.line = .idle) (d : Dest) (dir : Dir) :
    c.beginAddress false d dir = c.started d dir := by
  simp [Sgc.beginAddress, h, Sgc.formStart, Sgc.loadSettings, Sgc.started]

theorem Sgc.beginAddress_low {c : Sgc} (h : c.line = .idle) (d : Dest) (dir : Dir) :
    c.beginAddress true d dir = c.waits false d dir := by
  simp [Sgc.beginAddress, h, Sgc.waits]

theorem Sgc.beginAddress_foreign {c : Sgc} (h : c.line = .foreign) (low : Bool) (d : Dest) (dir : Dir) :
    c.beginAddress low d dir = c.waits true d dir := by
  simp [Sgc.beginAddress, h, Sgc.waits]

/-- A claim granted at once, and its begin. -/
theorem exec_addressByte_granted {s : State} {p : Port} {b : AddrByte} {e : RouteEntry} (fresh : (s.port p).fresh)
    (free : (s.port p).quarantined = false) (map : MapOk s) (leads : s.leads p b e)
    (unowned : (s.seg e.seg).owner = none) (cond : s.condition e.seg = .available) (low : List Seg) (f : Sgc → Sgc)
    (hf : (s.sgc e.seg).beginAddress (low.contains e.seg) (.device e.downstream) b.dir = f (s.sgc e.seg)) :
    exec (.addressByte p b low) s =
      .next ((((s.sampleLines low).modPort p
        (PortCtx.addressing .opening (some ⟨b.addr, e.seg, e.downstream, b.dir⟩) none)).modSeg e.seg
          fun r => { r with owner := some ⟨p, .single⟩ }).modSgc e.seg f) := by
  have decided := leads.resolution map free
  rw [if_neg (by simp [cond])] at decided
  have granted : ((s.sampleLines low).modPort p PortCtx.resolving).arrival p e.seg (.device e.downstream) = .granted :=
    State.arrival_eq_granted leads.coveringLease cond unowned
  rw [exec_addressByte_fresh fresh, State.resolve_eq, State.resolution_sampleLines, decided]
  simp only [State.claimSingle_eq, granted]
  rw [State.openSingle_route (r := ⟨b.addr, e.seg, e.downstream, b.dir⟩) (by simp [State.setOwner, PortCtx.claiming])
    (by simp [State.setOwner, PortCtx.claiming])]
  congr 1
  refine State.ext_parts (fun q => ?_) (fun _ => rfl) (fun x => ?_) (fun x => ?_) rfl rfl rfl rfl rfl rfl rfl
  · by_cases h : q = p
    · subst h
      simp [State.beginOn, State.setOwner, PortCtx.addressing, PortCtx.claiming, PortCtx.resolving, PortCtx.startHold,
        PortCtx.takeLimits]
    · simp [State.beginOn, State.setOwner, h]
  · by_cases h : x = e.seg
    · subst h; simp [State.beginOn, State.setOwner, Dest.kind]
    · simp [State.beginOn, State.setOwner, h]
  · by_cases h : x = e.seg
    · subst h; simpa [State.beginOn, State.setOwner] using hf
    · simp [State.beginOn, State.setOwner, h]

/-- Settles O8: the claim is granted; what the begin does is Sgc.beginAddress in each line state. -/
theorem claimOfFreeSegmentIsGranted : Obligations.ClaimOfFreeSegmentIsGranted := by
  intro s p b low e fresh free map leads unowned granted
  have cond : ∀ line, (s.sgc e.seg).line = line → lineCondition line = .available → s.condition e.seg = .available :=
    fun line h h' => by rw [State.condition, h, h']
  refine ⟨fun idle high => ?_, fun idle low' => ?_, fun foreign => ?_⟩
  · refine exec_addressByte_granted fresh free map leads unowned (cond _ idle rfl) low _ ?_
    rw [List.contains_eq_mem, decide_eq_false high]
    exact Sgc.beginAddress_idle idle _ _
  · refine exec_addressByte_granted fresh free map leads unowned (cond _ idle rfl) low _ ?_
    rw [List.contains_eq_mem, decide_eq_true low']
    exact Sgc.beginAddress_low idle _ _
  · exact exec_addressByte_granted fresh free map leads unowned (cond _ foreign rfl) low _
      (Sgc.beginAddress_foreign foreign _ _ _)

/-- Settles O9: the claim is queued. -/
theorem claimOfOwnedSegmentJoinsTheTail : Obligations.ClaimOfOwnedSegmentJoinsTheTail := by
  intro s p b low e o fresh free map leads owned cond
  have decided := leads.resolution map free
  rw [if_neg (by simp [cond])] at decided
  have queued : ((s.sampleLines low).modPort p PortCtx.resolving).arrival p e.seg (.device e.downstream) = .queued :=
    State.arrival_eq_queued leads.coveringLease cond owned
  rw [exec_addressByte_fresh fresh, State.resolve_eq, State.resolution_sampleLines, decided]
  simp only [State.claimSingle_eq, queued, State.enqueueClaim, State.modPort_modPort]
  exact congrArg (fun t : State => Host.Outcome.next (t.modSeg e.seg _)) (State.modPort_congr _ p _ _ rfl)

end Sys2Proof.Machine
end

section
/-! The Management Engine: the bytes of its arguments, the order of checks (R158), and the commands of the ports and
of a segment's settings (R139, R147, R150, R95). -/

namespace Sys2Proof.Machine

/-! ### Codes and words read back (Table 10-1, R166) -/

@[simp] theorem segOfByte_segCode (sg : Seg) : segOfByte (segCode sg) = some sg := by cases sg <;> rfl

@[simp] theorem portOfByte_portCode (p : Port) : portOfByte (portCode p) = some p := by cases p <;> rfl

theorem segOfByte_eq_none {b : Byte} (h : 5 < b.toNat) : segOfByte b = none := by
  unfold segOfByte
  split <;> first | omega | rfl

theorem portOfByte_eq_none {b : Byte} (h : 3 < b.toNat) : portOfByte b = none := by
  unfold portOfByte
  split <;> first | omega | rfl

theorem toNat_wordOf (hi lo : Byte) : (wordOf hi lo).toNat = hi.toNat * 256 + lo.toNat := by
  have h := hi.isLt
  have l := lo.isLt
  have shifted : hi.toNat <<< 8 < 2 ^ 16 := by rw [Nat.shiftLeft_eq]; omega
  rw [wordOf, BitVec.toNat_or, BitVec.toNat_shiftLeft, BitVec.toNat_setWidth, BitVec.toNat_setWidth,
    Nat.mod_eq_of_lt (by omega : hi.toNat < 2 ^ 16), Nat.mod_eq_of_lt shifted,
    Nat.mod_eq_of_lt (by omega : lo.toNat < 2 ^ 16), ← Nat.shiftLeft_add_eq_or_of_lt l, Nat.shiftLeft_eq]

theorem wordBytes_wordOf (hi lo : Byte) : wordBytes (wordOf hi lo) = [hi, lo] := by
  have h := hi.isLt
  have l := lo.isLt
  unfold wordBytes
  congr 1
  · apply BitVec.eq_of_toNat_eq
    rw [BitVec.toNat_setWidth, BitVec.toNat_ushiftRight, toNat_wordOf, Nat.shiftRight_eq_div_pow]
    omega
  · congr 1
    apply BitVec.eq_of_toNat_eq
    rw [BitVec.toNat_setWidth, toNat_wordOf]
    omega

theorem wordOf_wordBytes (w : Word16) : wordOf ((w >>> 8).setWidth 8) (w.setWidth 8) = w := by
  have h := w.isLt
  apply BitVec.eq_of_toNat_eq
  rw [toNat_wordOf, BitVec.toNat_setWidth, BitVec.toNat_setWidth, BitVec.toNat_ushiftRight, Nat.shiftRight_eq_div_pow]
  omega

theorem durationOf_wordBytes {d : Word16} (h1 : 1 ≤ d.toNat) (h2 : d.toNat ≤ 60000) :
    durationOf ((d >>> 8).setWidth 8) (d.setWidth 8) = some d := by
  simp only [durationOf, wordOf_wordBytes]
  simp [h1, h2]

theorem durationOf_eq_none {d : Word16} (h : d.toNat = 0 ∨ 60000 < d.toNat) :
    durationOf ((d >>> 8).setWidth 8) (d.setWidth 8) = none := by
  simp only [durationOf, wordOf_wordBytes]
  rw [if_neg (by simp; omega)]

/-! ### Steps 1 to 3: messages that cannot be read -/

theorem parse_badLength {m : Message} (h : m.bytes.length < 2 ∨ m.overlong = true) : m.parse = .refused .badLength := by
  unfold Message.parse
  rw [if_pos (by simp only [Bool.or_eq_true, decide_eq_true_eq]; tauto)]

theorem parse_long {m : Message} (h1 : 2 ≤ m.bytes.length) (h2 : m.bytes.length ≤ 16) (h3 : m.overlong = false) :
    m.parse = if byteSum m.bytes != 0 then .refused .badCheck else
      match m.bytes with
      | [] => .refused .badLength
      | b :: rest => match commandOfByte b with
        | none => .refused .unknownCommand
        | some c => .command c rest.dropLast := by
  unfold Message.parse
  exact (if_neg (by simp [h3, Config.messageCapacity]; omega)).trans rfl

/-- Table 10-2: no other byte names a command. -/
theorem commandOfByte_eq_none {b : Byte}
    (h : b ∉ ([0x01, 0x02, 0x0F, 0x20, 0x21, 0x22, 0x23, 0x24, 0x30, 0x31, 0x40, 0x41, 0x42, 0x50, 0x60] : List Byte)) :
    commandOfByte b = none := by
  simp only [List.mem_cons, List.not_mem_nil, or_false, not_or, ← BitVec.toNat_inj] at h
  unfold commandOfByte
  split <;> simp_all

/-- A message the Engine cannot read is answered with its status. -/
theorem exec_unknownCommand_refused {s : State} {p : Port} {m : Message} {st : Status}
    (handed : (s.port p).handed = some m) (noAddress : (s.port p).heldAddr = none) (h : m.parse = .refused st)
    (low : List Seg) : exec (.unknownCommand p low) s = .next ((s.sampleLines low).answered p st []) := by
  refine congrArg Host.Outcome.next ?_
  have here : ((s.sampleLines low).port p).handed = some m := handed
  simp only [State.unknownCommand, here, h]
  exact State.finishCommand_noAddress (s := s.sampleLines low) noAddress st []

/-- Settles O37: each check in turn. -/
theorem unreadableMessageIsAnswered : Obligations.UnreadableMessageIsAnswered := by
  intro s p low m handed noAddress
  refine ⟨fun bad => ?_, fun l1 l2 short sum => ?_, fun b rest hb l1 l2 short sum unknown => ?_⟩
  · exact exec_unknownCommand_refused handed noAddress (parse_badLength bad) low
  · refine exec_unknownCommand_refused handed noAddress ?_ low
    rw [parse_long l1 l2 short, if_pos (by simpa using sum)]
  · refine exec_unknownCommand_refused handed noAddress ?_ low
    rw [parse_long l1 l2 short, if_neg (by simp [sum]), hb]
    simp only [commandOfByte_eq_none unknown]

/-! ### Steps 4 and 5: commands turned away -/

theorem State.checked_badLength {s : State} {p : Port} {id : CommandId} {args : List Byte}
    (h : args.length ≠ argumentCount id) (body : List Byte → State → Answered) :
    s.checked p id args body = refusedWith s .badLength := by
  simp [State.checked, h]

theorem State.checked_notPrivileged {s : State} {p : Port} {id : CommandId} {args : List Byte}
    (h : args.length = argumentCount id) (needs : needsPrivilege id = true) (lacks : privileged s.straps p = false)
    (body : List Byte → State → Answered) : s.checked p id args body = refusedWith s .denied := by
  simp [State.checked, h, needs, lacks]

theorem State.checked_quarantined {s : State} {p : Port} {id : CommandId} {args : List Byte}
    (h : args.length = argumentCount id) (needs : needsPrivilege id = false) (closed : closedToQuarantined id = true)
    (flag : (s.port p).quarantined = true) (body : List Byte → State → Answered) :
    s.checked p id args body = refusedWith s .denied := by
  simp [State.checked, h, needs, closed, flag]

/-- A command that a check refuses is answered with the check's status and leaves the state. -/
theorem State.takeCommand_turnedAway {s : State} {p : Port} {b : Byte} {args : List Byte} {id : CommandId}
    {body : List Byte → State → Answered} {st : Status} (h : s.asked p b args) (hc : commandOfByte b = some id)
    (short : args.length ≤ 14) (away : s.checked p id args body = refusedWith s st) :
    s.takeCommand p id body = s.answered p st [] := by
  have ⟨_, noAddress⟩ := h
  rw [State.takeCommand_asked h id hc short, away]
  exact State.finishCommand_noAddress noAddress st []

theorem next_takeCommand_badLength {s : State} {p : Port} {b : Byte} {args : List Byte} (low : List Seg)
    (h : s.asked p b args) {id : CommandId} (body : List Byte → State → Answered) (hc : commandOfByte b = some id)
    (short : args.length ≤ 14) (wrong : args.length ≠ argumentCount id) :
    Host.Outcome.next (φ := Fault) (ρ := Refusal) ((s.sampleLines low).takeCommand p id body) =
      .next ((s.sampleLines low).answered p .badLength []) :=
  congrArg _ (State.takeCommand_turnedAway h hc short (State.checked_badLength wrong body))

theorem next_takeCommand_notPrivileged {s : State} {p : Port} {b : Byte} {args : List Byte} (low : List Seg)
    (h : s.asked p b args) {id : CommandId} (body : List Byte → State → Answered) (hc : commandOfByte b = some id)
    (needs : needsPrivilege id = true) (lacks : privileged s.straps p = false) (count : args.length = argumentCount id) :
    Host.Outcome.next (φ := Fault) (ρ := Refusal) ((s.sampleLines low).takeCommand p id body) =
      .next ((s.sampleLines low).answered p .denied []) :=
  congrArg _ (State.takeCommand_turnedAway h hc (by have := argumentCount_le_five id; omega)
    (State.checked_notPrivileged (s := s.sampleLines low) count needs lacks body))

theorem next_takeCommand_quarantined {s : State} {p : Port} {b : Byte} {args : List Byte} (low : List Seg)
    (h : s.asked p b args) {id : CommandId} (body : List Byte → State → Answered) (hc : commandOfByte b = some id)
    (needs : needsPrivilege id = false) (closed : closedToQuarantined id = true)
    (flag : (s.port p).quarantined = true) (count : args.length = argumentCount id) :
    Host.Outcome.next (φ := Fault) (ρ := Refusal) ((s.sampleLines low).takeCommand p id body) =
      .next ((s.sampleLines low).answered p .denied []) :=
  congrArg _ (State.takeCommand_turnedAway h hc (by have := argumentCount_le_five id; omega)
    (State.checked_quarantined (s := s.sampleLines low) count needs closed flag body))

/-- Settles O38: one check refuses each command. -/
theorem checksTurnCommandsAway : Obligations.ChecksTurnCommandsAway := by
  refine ⟨fun s p low clocked args short => ?_, fun s p low clocked args => ⟨fun lacks => ?_, fun flag => ?_⟩⟩
  · refine ⟨?_, ?_, ?_, ?_, ?_, ?_, ?_, ?_, ?_, ?_, ?_, ?_, ?_, ?_, ?_⟩
    all_goals exact fun asked wrong => next_takeCommand_badLength low asked _ rfl short wrong
  · refine ⟨?_, ?_, ?_, ?_, ?_, ?_⟩
    all_goals exact fun asked count => next_takeCommand_notPrivileged low asked _ rfl rfl lacks count
  · refine ⟨?_, ?_⟩
    all_goals exact fun asked count => next_takeCommand_quarantined low asked _ rfl rfl rfl flag count

/-! ### Commands that change the port -/

/-- A command that passes the checks is answered with what its own steps give, if no address byte waits after them. -/
theorem State.takeCommand_answered {s t : State} {p : Port} {b : Byte} {args : List Byte} {id : CommandId}
    (h : s.asked p b args) (hc : commandOfByte b = some id) (h4 : args.length = argumentCount id)
    (h5 : needsPrivilege id = true → privileged s.straps p = true)
    (h6 : closedToQuarantined id = true → (s.port p).quarantined = false)
    {body : List Byte → State → Answered} {st : Status} {payload : List Byte}
    (hbody : body args s = ⟨t, ⟨st, payload⟩⟩) (noAddress : (t.port p).heldAddr = none) :
    s.takeCommand p id body = t.answered p st payload := by
  have short : args.length ≤ 14 := by
    have := argumentCount_le_five id
    omega
  rw [State.takeCommand_asked h id hc short, State.checked_pass h4 h5 h6, hbody]
  exact State.finishCommand_noAddress noAddress st payload

/-- A lawful update of one port leaves no address byte waiting where none waited. -/
theorem State.heldAddr_modPort {s : State} {p q : Port} {f : PortCtx → PortCtx} (h : (s.port p).heldAddr = none)
    (hf : ∀ c, (f c).heldAddr = c.heldAddr) : ((s.modPort q f).port p).heldAddr = none := by
  by_cases e : p = q
  · subst e; rw [State.port_modPort_same, hf, h]
  · rw [State.port_modPort_ne _ _ _ e, h]

/-! ### PORT_SET (R162) -/

theorem portLimitOf_of_range {b : Byte} (h : limitRange b) : portLimitOf b = some b := by
  obtain ⟨low, high⟩ := h
  simp [portLimitOf, low, high]

theorem portLimitOf_eq_none {b : Byte} (h : ¬ limitRange b) : portLimitOf b = none := by
  unfold limitRange at h
  rw [portLimitOf, if_neg (by simpa using h)]

theorem maskOf_of_clear {hi lo : Byte} (h : (wordOf hi lo).getLsbD 15 = false) : maskOf hi lo = some (wordOf hi lo) := by
  simp only [maskOf, h, Bool.false_eq_true, if_false]

theorem maskOf_eq_none {hi lo : Byte} (h : (wordOf hi lo).getLsbD 15 = true) : maskOf hi lo = none := by
  simp only [maskOf, h, if_true]

theorem portSetBody_ok (p : Port) {hold idle m1 m0 : Byte} (hh : limitRange hold) (hi : limitRange idle)
    (hm : (wordOf m1 m0).getLsbD 15 = false) (s : State) :
    portSetBody p [hold, idle, m1, m0] s =
      ⟨(s.modPort p fun c => { c with holdLimit := hold, idleLimit := idle, mask := wordOf m1 m0 }).modLog p fun l =>
        { l with attLow := l.records.any fun r => (wordOf m1 m0).getLsbD r.body.kind.code },
        ⟨.ok, [hold, idle, m1, m0]⟩⟩ := by
  simp only [portSetBody, portLimitOf_of_range hh, portLimitOf_of_range hi, maskOf_of_clear hm, wordBytes_wordOf,
    State.setAttention, State.port_modPort_same]
  rfl

theorem portSetBody_badArgument (p : Port) {hold idle m1 m0 : Byte}
    (h : ¬ limitRange hold ∨ ¬ limitRange idle ∨ (wordOf m1 m0).getLsbD 15 = true) (s : State) :
    portSetBody p [hold, idle, m1, m0] s = ⟨s, ⟨.badArgument, []⟩⟩ := by
  unfold portSetBody
  split
  · rename_i args _ _ _ _ hargs
    obtain ⟨rfl, rfl, rfl, rfl⟩ : _ = _ ∧ _ = _ ∧ _ = _ ∧ _ = _ := by simpa using hargs
    split
    · rename_i a b c ha hb hc
      rcases h with bad | bad | bad
      · rw [portLimitOf_eq_none bad] at ha; contradiction
      · rw [portLimitOf_eq_none bad] at hb; contradiction
      · rw [maskOf_eq_none bad] at hc; contradiction
    · rfl
  · rename_i notFour
    exact absurd rfl (notFour _ _ _ _)

/-- Settles O41. -/
theorem portSetWritesTheSettings : Obligations.PortSetWritesTheSettings := by
  intro s p low hold idle m1 m0 asked
  obtain ⟨_, noAddress⟩ := id asked
  refine ⟨fun hh hi hm => ?_, fun bad => ?_⟩
  · exact congrArg Host.Outcome.next (State.takeCommand_answered ((s.asked_sampleLines low p _ _).mpr asked) rfl rfl
      nofun nofun (portSetBody_ok p hh hi hm _) (State.heldAddr_modPort noAddress fun _ => rfl))
  · exact congrArg Host.Outcome.next (State.takeCommand_of_body ((s.asked_sampleLines low p _ _).mpr asked) rfl rfl
      nofun nofun (portSetBody_badArgument p bad _) rfl)

/-! ### PORT_RESTORE (R139) -/

/-- Settles O51. -/
theorem portRestoreEndsTheQuarantine : Obligations.PortRestoreEndsTheQuarantine := by
  intro s p low b asked priv
  obtain ⟨_, noAddress⟩ := id asked
  have answered := fun {t : State} {st payload} hbody hheld => congrArg (Host.Outcome.next (φ := Fault) (ρ := Refusal))
    (State.takeCommand_answered (t := t) (st := st) (payload := payload) (body := portRestoreBody)
      ((s.asked_sampleLines low p _ _).mpr asked) rfl rfl (fun _ => priv) nofun hbody hheld)
  refine ⟨fun none => answered ?_ noAddress, ?_⟩
  · simp [portRestoreBody, portOfByte_eq_none none, refusedWith, Reply.bare]
  · rintro q rfl
    refine ⟨fun free => answered ?_ noAddress, fun flag => answered ?_ (State.heldAddr_modPort noAddress fun _ => rfl)⟩
    · simp [portRestoreBody, free, refusedWith, Reply.bare]
    · simp [portRestoreBody, flag]

/-! ### LOG_READ (R147, R170) -/

theorem readCountOf_of_range {b : Byte} (h1 : 1 ≤ b.toNat) (h2 : b.toNat ≤ 4) : readCountOf b = some b.toNat := by
  simp [readCountOf, h1, h2]

theorem readCountOf_eq_none {b : Byte} (h : b.toNat = 0 ∨ 4 < b.toNat) : readCountOf b = none := by
  rw [readCountOf, if_neg (by simp; omega)]

/-- Byte 3 of a record as a sum of its bits (Table 10-6). -/
theorem recordFlags_eq (r : Record) :
    recordFlags r = (if r.lostAfter then 0x80 else 0) + (if r.body.visible = none then 0 else 0x08) +
      (if r.body.seg = none then 0 else 0x04) + (if r.body.bytesMoved = none then 0 else 0x02) +
      (if r.body.leaseId = none then 0 else 0x01) := by
  obtain ⟨_, lost, _, visible, sg, moved, lease, _⟩ := r
  simp only [recordFlags, ← Option.not_isSome_iff_eq_none]
  cases lost <;> cases visible.isSome <;> cases sg.isSome <;> cases moved.isSome <;> cases lease.isSome <;> rfl

theorem logReadBody_ok (p : Port) {b : Byte} (h1 : 1 ≤ b.toNat) (h2 : b.toNat ≤ 4) (s : State) :
    logReadBody p [b] s =
      ⟨s.modLog p (Log.dropOldest (s.port p).mask b.toNat), ⟨.ok, logPayload ((s.log p).records.take b.toNat)⟩⟩ := by
  simp only [logReadBody, readCountOf_of_range h1 h2]

/-- Settles O52: the payload is that of Table 10-6 byte by byte. -/
theorem logReadRemovesTheOldest : Obligations.LogReadRemovesTheOldest := by
  intro s p low b asked two kind detail ten
  have code : ∀ k : RecordKind, (kind k).toNat = k.code := by intro k; cases k <;> rfl
  have bytes : ten = recordBytes := by
    funext r
    unfold recordBytes
    rw [recordFlags_eq]
    obtain ⟨seq, lost, k, visible, sg, moved, lease, d⟩ := r
    refine congrArg₂ (· ++ ·) (congrArg₂ (· ++ ·) (congrArg₂ (· ++ ·) rfl ?_) ?_) ?_
    · refine congrArg₂ List.cons (by cases k <;> rfl) (congrArg₂ List.cons rfl (congrArg₂ List.cons ?_
        (congrArg₂ List.cons ?_ rfl)))
      · cases visible <;> rfl
      · cases sg with
        | none => rfl
        | some sg => cases sg <;> rfl
    · cases moved <;> rfl
    · exact congrArg₂ List.cons (by cases lease <;> rfl) (congrArg₂ List.cons (by cases d <;> rfl) rfl)
  have answered := fun {t : State} {st payload} hbody hport => congrArg (Host.Outcome.next (φ := Fault) (ρ := Refusal))
    (State.takeCommand_of_body (t := t) (st := st) (payload := payload) (body := logReadBody p)
      ((s.asked_sampleLines low p _ _).mpr asked) rfl rfl nofun nofun hbody hport)
  refine ⟨fun bad => answered ?_ rfl, fun h1 h2 => ?_⟩
  · simp [logReadBody, readCountOf_eq_none bad, refusedWith, Reply.bare]
  · refine (answered (logReadBody_ok p h1 h2 _) rfl).trans ?_
    simp only [bytes, code]
    rfl

end Sys2Proof.Machine
end

section
/-! The commands of the segments, the map and the leases on their arguments (R95, R108, R109, R33 to R37, R25). -/

namespace Sys2Proof.Machine

/-! ### SEGMENT_SET (R95) -/

theorem rateOfByte_eq_none {b : Byte} (h : 2 < b.toNat) : rateOfByte b = none := by
  unfold rateOfByte
  split <;> first | omega | rfl

theorem flagOfByte_eq_none {b : Byte} (h : 1 < b.toNat) : flagOfByte b = none := by
  unfold flagOfByte
  split <;> first | omega | rfl

theorem flagOfByte_of_le {b : Byte} (h : b.toNat ≤ 1) : flagOfByte b = some (b == 1) := by
  have cases : b = 0 ∨ b = 1 := by
    rcases Nat.le_one_iff_eq_zero_or_eq_one.mp h with h | h
    · exact .inl (BitVec.eq_of_toNat_eq h)
    · exact .inr (BitVec.eq_of_toNat_eq h)
  rcases cases with rfl | rfl <;> rfl

theorem stuckLimitOf_of_range {b : Byte} (h : stuckRange b) : stuckLimitOf b = some b := by
  obtain ⟨low, high⟩ := h
  simp [stuckLimitOf, low, high]

theorem stuckLimitOf_eq_none {b : Byte} (h : ¬ stuckRange b) : stuckLimitOf b = none := by
  unfold stuckRange at h
  rw [stuckLimitOf, if_neg (by simpa using h)]

/-- R95: which segments keep their flag. -/
theorem State.inBroadcast_iff (s : State) (sg : Seg) :
    s.inBroadcast sg = true ↔ ∃ q, s.markOf q sg = some .pending ∨ s.markOf q sg = some .owned ∨
      (s.seg sg).owner = some ⟨q, .broadcast⟩ := by
  simp only [State.inBroadcast, Bool.or_eq_true, List.any_eq_true, beq_iff_eq, Option.any_eq_true]
  constructor
  · rintro (⟨q, _, h | h⟩ | ⟨⟨q, k⟩, h, rfl⟩)
    · exact ⟨q, .inl h⟩
    · exact ⟨q, .inr (.inl h)⟩
    · exact ⟨q, .inr (.inr h)⟩
  · rintro ⟨q, h | h | h⟩
    · exact .inl ⟨q, Port.mem_all q, .inl h⟩
    · exact .inl ⟨q, Port.mem_all q, .inr h⟩
    · exact .inr ⟨_, h, rfl⟩

theorem segmentSetBody_badArgument {b r limit f : Byte} (s : State)
    (h : segOfByte b = none ∨ rateOfByte r = none ∨ stuckLimitOf limit = none ∨ flagOfByte f = none) :
    segmentSetBody [b, r, limit, f] s = ⟨s, ⟨.badArgument, []⟩⟩ := by
  simp only [segmentSetBody]
  split
  · rename_i hb hr hl hf
    rw [hb, hr, hl, hf] at h
    simp at h
  · rfl

theorem segmentSetBody_of_args {sg : Seg} {r limit f : Byte} {rate : Rate} (hr : rateOfByte r = some rate)
    (hl : stuckRange limit) (hf : f.toNat ≤ 1) (s : State) :
    segmentSetBody [segCode sg, r, limit, f] s =
      if !(f == 1) && s.inBroadcast sg then ⟨s, ⟨.busy, []⟩⟩ else
        ⟨s.modSgc sg fun c => { c with pendingRate := rate, pendingStuck := limit, broadcastFlag := f == 1 },
          ⟨.ok, []⟩⟩ := by
  simp only [segmentSetBody, segOfByte_segCode, hr, stuckLimitOf_of_range hl, flagOfByte_of_le hf]
  rfl

/-- Settles O47. -/
theorem segmentSetWritesThePendingSettings : Obligations.SegmentSetWritesThePendingSettings := by
  intro s p low b r limit f asked priv
  have answered := fun {t : State} {st payload} hbody hport => congrArg (Host.Outcome.next (φ := Fault) (ρ := Refusal))
    (State.takeCommand_of_body (t := t) (st := st) (payload := payload) (body := segmentSetBody)
      ((s.asked_sampleLines low p _ _).mpr asked) rfl rfl (fun _ => priv) nofun hbody hport)
  refine ⟨fun bad => answered (segmentSetBody_badArgument _ ?_) rfl, ?_⟩
  · rcases bad with bad | bad | bad | bad
    · exact .inl (segOfByte_eq_none bad)
    · exact .inr (.inl (rateOfByte_eq_none bad))
    · exact .inr (.inr (.inl (stuckLimitOf_eq_none bad)))
    · exact .inr (.inr (.inr (flagOfByte_eq_none bad)))
  · rintro sg rate rfl hr hl hf
    have body := segmentSetBody_of_args (sg := sg) hr hl hf (s.sampleLines low)
    have kept := (s.sampleLines low).inBroadcast_iff sg
    refine ⟨?_, fun free => ?_⟩
    · rintro rfl inSet
      rw [if_pos (by rw [kept.mpr inSet]; rfl)] at body
      exact answered body rfl
    · rw [if_neg] at body
      · exact answered body rfl
      · rcases free with rfl | free
        · simp
        · rw [Bool.eq_false_iff.mpr (kept.not.mpr free), Bool.and_false]
          exact Bool.false_ne_true

/-! ### MAP_SET (R108, R109) -/

theorem portMaskOf_portMaskCode {m : PerPort Bool} (h : ∃ p, m.get p = true) : portMaskOf (portMaskCode m) = some m := by
  obtain ⟨a, b, c, d⟩ := m
  obtain ⟨p, hp⟩ := h
  have someBit : (a || b || c || d) = true := by cases p <;> simp_all [PerPort.get]
  clear hp
  revert a b c d
  decide

theorem accessOf_accessCode {a : Access} (h : a.read = true ∨ a.write = true) : accessOf (accessCode a) = some a := by
  obtain ⟨r, w⟩ := a
  revert r w
  decide

theorem portMaskOf_eq_none {b : Byte} (h : b.toNat = 0 ∨ 15 < b.toNat) : portMaskOf b = none := by
  rw [portMaskOf, if_neg (by simp; omega)]

theorem accessOf_eq_none {b : Byte} (h : b.toNat = 0 ∨ 3 < b.toNat) : accessOf b = none := by
  rw [accessOf, if_neg (by simp; omega)]

/-- R108: what keeps MAP_SET from reading its arguments. -/
theorem mapSetBody_badArgument {v b d m a : Byte} {s : State}
    (h : addrOfByte v = none ∨ v = addrCode (mgmtAddress s.straps) ∨ segOfByte b = none ∨ addrOfByte d = none ∨
      portMaskOf m = none ∨ accessOf a = none) : mapSetBody [v, b, d, m, a] s = ⟨s, ⟨.badArgument, []⟩⟩ := by
  simp only [mapSetBody]
  split
  · rename_i visible sg downstream ports access hv hb hd hm ha
    rw [hv, hb, hd, hm, ha] at h
    rcases h with h | h | h | h | h | h
    · contradiction
    · have management : deviceAddress (mgmtAddress s.straps) := by
        unfold mgmtAddress; split <;> exact ⟨by decide, by decide⟩
      rw [h, addrOfByte_addrCode management] at hv
      obtain rfl := Option.some.inj hv
      rw [if_pos (by simp)]
      rfl
    all_goals contradiction
  · rfl

theorem mapSetBody_of_entry {e : RouteEntry} {s : State} (ok : EntryOk s.straps e) :
    mapSetBody [addrCode e.visible, segCode e.seg, addrCode e.downstream, portMaskCode e.ports, accessCode e.access] s =
      s.mapSet e := by
  obtain ⟨visible, notManagement, downstream, ports, access⟩ := ok
  simp [mapSetBody, addrOfByte_addrCode visible, addrOfByte_addrCode downstream, portMaskOf_portMaskCode ports,
    accessOf_accessCode access, notManagement]

/-- R100: as many entries lie below an address as stand before its place. -/
theorem indexOfVisible_eq {before after : List RouteEntry} {a : Addr} (hb : ∀ x ∈ before, x.visible.toNat < a.toNat)
    (ha : ∀ x ∈ after, a.toNat ≤ x.visible.toNat) : indexOfVisible (before ++ after) a = before.length := by
  have below : before.filter (fun e => e.visible.toNat < a.toNat) = before :=
    List.filter_eq_self.mpr fun x hx => decide_eq_true (hb x hx)
  have above : after.filter (fun e => e.visible.toNat < a.toNat) = [] :=
    List.filter_eq_nil_iff.mpr fun x hx => by have := ha x hx; simp; omega
  rw [indexOfVisible, List.filter_append, below, above, List.append_nil]

/-- R109: an entry inserted, turned away from a full map, or replaced. -/
theorem State.mapSet_insert {s : State} {e : RouteEntry} {before after : List RouteEntry}
    (hb : ∀ x ∈ before, x.visible.toNat < e.visible.toNat) (ha : ∀ x ∈ after, e.visible.toNat < x.visible.toNat)
    (hm : s.map = before ++ after) :
    s.mapSet e = if 32 ≤ s.map.length then ⟨s, ⟨.tableFull, []⟩⟩ else
      ⟨s.setMap (before ++ e :: after), ⟨.ok, [BitVec.ofNat 8 before.length, 0x00]⟩⟩ := by
  simp only [State.mapSet, hm, hasEntry_of_absent hb ha, putEntry_insert hb ha,
    indexOfVisible_eq hb fun x hx => (ha x hx).le, Bool.not_false, Bool.true_and, decide_eq_true_eq, Bool.false_eq_true,
    if_false]
  rfl

theorem State.mapSet_replace {s : State} {e old : RouteEntry} {before after : List RouteEntry}
    (hb : ∀ x ∈ before, x.visible.toNat < e.visible.toNat) (ha : ∀ x ∈ after, e.visible.toNat < x.visible.toNat)
    (he : old.visible = e.visible) (hm : s.map = before ++ old :: after) :
    s.mapSet e = ⟨s.setMap (before ++ e :: after), ⟨.ok, [BitVec.ofNat 8 before.length, 0x01]⟩⟩ := by
  have index : indexOfVisible (before ++ old :: after) e.visible = before.length := indexOfVisible_eq hb fun x hx => by
    rcases List.mem_cons.mp hx with rfl | hx
    · rw [he]
    · exact (ha x hx).le
  simp only [State.mapSet, hm, hasEntry_of_present he, putEntry_replace he hb, index, Bool.not_true, Bool.false_and,
    Bool.false_eq_true, if_false, if_true]

/-- Settles O49. -/
theorem mapSetInsertsOrReplaces : Obligations.MapSetInsertsOrReplaces := by
  refine ⟨fun s p low v b d m a asked priv bad => ?_, fun s p low e before after asked priv ok hb ha => ?_⟩
  · refine congrArg Host.Outcome.next (State.takeCommand_of_body ((s.asked_sampleLines low p _ _).mpr asked) rfl rfl
      (fun _ => priv) nofun (mapSetBody_badArgument ?_) rfl)
    rcases bad with bad | bad | bad | bad | bad | bad | bad | bad | bad | bad
    · exact .inl (addrOfByte_eq_none (.inl bad))
    · exact .inl (addrOfByte_eq_none (.inr bad))
    · exact .inr (.inl bad)
    · exact .inr (.inr (.inl (segOfByte_eq_none bad)))
    · exact .inr (.inr (.inr (.inl (addrOfByte_eq_none (.inl bad)))))
    · exact .inr (.inr (.inr (.inl (addrOfByte_eq_none (.inr bad)))))
    · exact .inr (.inr (.inr (.inr (.inl (portMaskOf_eq_none (.inl bad))))))
    · exact .inr (.inr (.inr (.inr (.inl (portMaskOf_eq_none (.inr bad))))))
    · exact .inr (.inr (.inr (.inr (.inr (accessOf_eq_none (.inl bad))))))
    · exact .inr (.inr (.inr (.inr (.inr (accessOf_eq_none (.inr bad))))))
  · have answered := fun {t : State} {st payload} (h : (s.sampleLines low).mapSet e = ⟨t, ⟨st, payload⟩⟩) hport =>
      congrArg (Host.Outcome.next (φ := Fault) (ρ := Refusal)) (State.takeCommand_of_body (body := mapSetBody)
        ((s.asked_sampleLines low p _ _).mpr asked) rfl rfl (fun _ => priv) nofun
        ((mapSetBody_of_entry (s := s.sampleLines low) ok).trans h) hport)
    refine ⟨fun hm room => ?_, fun hm full => ?_, fun old he hm => ?_⟩
    · refine answered ((State.mapSet_insert (s := s.sampleLines low) hb ha hm).trans (if_neg ?_)) rfl
      exact Nat.not_le.mpr room
    · refine answered ((State.mapSet_insert (s := s.sampleLines low) hb ha hm).trans (if_pos ?_)) rfl
      exact Nat.le_of_eq full.symm
    · exact answered (State.mapSet_replace hb ha he hm) rfl

/-! ### RESERVE (R25, R31, R33, R34) -/

theorem targetOfByte_target {t : Option Addr} (h : ∀ a ∈ t, deviceAddress a) :
    targetOfByte ((t.map addrCode).getD 0) = some t := by
  cases t with
  | none => rfl
  | some a =>
    have ok := h a rfl
    have nonzero : addrCode a ≠ 0 := fun zero => by
      have := congrArg BitVec.toNat zero
      rw [toNat_addrCode] at this
      have := ok.1
      simp_all
    simp only [Option.map_some, Option.getD_some, targetOfByte, addrOfByte_addrCode ok]
    rw [if_neg (by simpa using nonzero)]

theorem targetOfByte_eq_none {t : Byte} (h : t ≠ 0 ∧ (t.toNat < 0x08 ∨ 0x77 < t.toNat)) : targetOfByte t = none := by
  obtain ⟨nonzero, range⟩ := h
  rw [targetOfByte, if_neg (by simpa using nonzero), addrOfByte_eq_none range, Option.map_none]

theorem reserveBody_badArgument (p : Port) {b t : Byte} {d : Word16} (s : State)
    (h : segOfByte b = none ∨ targetOfByte t = none ∨ durationOf ((d >>> 8).setWidth 8) (d.setWidth 8) = none) :
    reserveBody p ([b, t] ++ wordBytes d) s = ⟨s, ⟨.badArgument, []⟩⟩ := by
  simp only [reserveBody, wordBytes, List.cons_append, List.nil_append]
  split
  · rename_i hb ht hd
    rw [hb, ht, hd] at h
    simp at h
  · rfl

theorem reserveBody_of_args (p : Port) (sg : Seg) {target : Option Addr} {d : Word16} (ht : ∀ a ∈ target, deviceAddress a)
    (h1 : 1 ≤ d.toNat) (h2 : d.toNat ≤ 60000) (s : State) :
    reserveBody p ([segCode sg, (target.map addrCode).getD 0] ++ wordBytes d) s = s.reserve p sg target d := by
  simp only [reserveBody, wordBytes, List.cons_append, List.nil_append, segOfByte_segCode, targetOfByte_target ht,
    durationOf_wordBytes h1 h2]

/-- In a list ascending in id, a member that a predicate holds of, with the lowest id of those, is the first. -/
theorem find_eq_of_lowest {ls : List Lease} (asc : ls.Pairwise fun a b => a.id.toNat < b.id.toNat) {l : Lease}
    (hl : l ∈ ls) {f : Lease → Bool} (hf : f l = true) (lowest : ∀ m ∈ ls, f m = true → l.id.toNat ≤ m.id.toNat) :
    ls.find? f = some l := by
  induction ls with
  | nil => exact absurd hl List.not_mem_nil
  | cons x rest ih =>
    obtain ⟨hx, hrest⟩ := List.pairwise_cons.mp asc
    rcases List.mem_cons.mp hl with rfl | hl
    · exact List.find?_cons_of_pos hf
    · have skipped : ¬ f x = true := fun fx => by
        have := hx l hl
        have := lowest x List.mem_cons_self fx
        omega
      rw [List.find?_cons_of_neg skipped]
      exact ih hrest hl fun m hm => lowest m (List.mem_cons_of_mem _ hm)

/-- Settles O45. -/
theorem reserveIsRefusedInOrder : Obligations.ReserveIsRefusedInOrder := by
  intro s p low b t d asked free table refused
  have answered := fun {st payload} (h : reserveBody p ([b, t] ++ wordBytes d) (s.sampleLines low) =
      ⟨s.sampleLines low, ⟨st, payload⟩⟩) => congrArg (Host.Outcome.next (φ := Fault) (ρ := Refusal))
    (State.takeCommand_of_body (body := reserveBody p) ((s.asked_sampleLines low p _ _).mpr asked) rfl rfl nofun
      (fun _ => free) h rfl)
  refine ⟨fun bad => answered (reserveBody_badArgument p _ ?_), ?_⟩
  · rcases bad with bad | bad | bad
    · exact .inl (segOfByte_eq_none bad)
    · exact .inr (.inl (targetOfByte_eq_none bad))
    · exact .inr (.inr (durationOf_eq_none bad))
  rintro sg target rfl rfl ht h1 h2
  have body := reserveBody_of_args p sg ht h1 h2 (s.sampleLines low)
  have asc : ((s.sampleLines low).overlapping sg target).Pairwise fun a b => a.id.toNat < b.id.toNat :=
    table.ascending.filter _
  have mem : ∀ l, l ∈ (s.sampleLines low).overlapping sg target ↔ l ∈ s.leases ∧ l.overlaps sg target = true :=
    fun l => List.mem_filter
  refine ⟨fun l hl covers other lowest => answered (body.trans ?_), fun l hl covers own => answered (body.trans ?_),
    fun apart full => answered (body.trans ?_)⟩
  · have first : ((s.sampleLines low).overlapping sg target).find? (fun l => l.holder != p) = some l :=
      find_eq_of_lowest asc ((mem l).mpr ⟨hl, covers⟩) (by simpa using other) fun m hm other' =>
        lowest m ((mem m).mp hm).1 ((mem m).mp hm).2 (by simpa using other')
    simp only [State.reserve, first]
  · have noOther : ((s.sampleLines low).overlapping sg target).find? (fun l => l.holder != p) = none := by
      rw [List.find?_eq_none]
      intro m hm
      simp [(own m ((mem m).mp hm).1 ((mem m).mp hm).2).1]
    have first : ((s.sampleLines low).overlapping sg target).find? (fun _ => true) = some l :=
      find_eq_of_lowest asc ((mem l).mpr ⟨hl, covers⟩) rfl fun m hm _ => (own m ((mem m).mp hm).1 ((mem m).mp hm).2).2
    cases h : (s.sampleLines low).overlapping sg target with
    | nil => rw [h] at first; contradiction
    | cons x rest =>
      rw [h] at first noOther
      obtain rfl : x = l := by simpa using first
      simp only [State.reserve, h, noOther]
  · have none : (s.sampleLines low).overlapping sg target = [] := List.filter_eq_nil_iff.mpr fun l hl => by simp [apart l hl]
    have noRoom : ¬ (s.leases.length < 8 ∧ (s.leasesHeld p).length < 4) := by omega
    simp only [State.reserve, none, List.find?_nil]
    refine if_neg fun room => noRoom ?_
    rw [Bool.and_eq_true, decide_eq_true_eq, decide_eq_true_eq] at room
    exact room

/-- R117: where no set holds the segment PENDING, none drops it. -/
theorem State.foldl_dropIfPending_none {s : State} {sg : Seg} (why : RefusalReason)
    (h : ∀ q, s.markOf q sg ≠ some .pending) (ps : List Port) : ps.foldl (State.dropIfPending why sg) s = s := by
  induction ps with
  | nil => rfl
  | cons q rest ih =>
    rw [List.foldl_cons, State.dropIfPending, if_neg (by simpa using h q)]
    exact ih

/-- R17: a lease on a segment nothing waits for turns nobody away. -/
theorem State.leaseHandOver_unwanted {s : State} {l : Lease} (h : s.unwanted l.seg) : s.leaseHandOver l = s := by
  obtain ⟨list, sets⟩ := h
  unfold State.leaseHandOver
  simp only [list, List.filter_nil, List.foldl_nil]
  rw [State.modSeg_self _ _ _ (by rw [list, List.filter_nil, ← list])]
  exact State.foldl_dropIfPending_none _ sets _

/-- R25, R31, R34: a request that no lease overlaps, with room, is granted. -/
theorem State.reserve_granted {s : State} {p : Port} {sg : Seg} {target : Option Addr} (d : Word16)
    (apart : ∀ l ∈ s.leases, l.overlaps sg target = false) (room : s.leases.length < 8)
    (held : (s.leasesHeld p).length < 4) :
    s.reserve p sg target d =
      ⟨s.grantLease (s.newLease p sg target d), ⟨.ok, [(s.newLease p sg target d).id]⟩⟩ := by
  have none : s.overlapping sg target = [] := List.filter_eq_nil_iff.mpr fun l hl => by simp [apart l hl]
  simp only [State.reserve, none, List.find?_nil]
  refine if_pos ?_
  rw [Bool.and_eq_true, decide_eq_true_eq, decide_eq_true_eq]
  exact ⟨room, held⟩

/-- Settles O43. -/
theorem reserveGrantsALease : Obligations.ReserveGrantsALease := by
  intro s p low sg target d k asked ht h1 h2 free apart room held unwanted hk id used unused
  have found : (s.sampleLines low).newLease p sg target d = ⟨id, p, sg, target, d, false⟩ := by
    rw [State.newLease]
    exact congrArg (Lease.mk · p sg target d false) (freeLeaseId_eq_iterate used unused (by omega))
  refine congrArg Host.Outcome.next (State.takeCommand_of_body ((s.asked_sampleLines low p _ _).mpr asked) rfl rfl nofun
    (fun _ => free) ((reserveBody_of_args p sg ht h1 h2 _).trans ?_) rfl)
  rw [State.reserve_granted (s := s.sampleLines low) d apart room held, found, State.grantLease]
  rw [State.leaseHandOver_unwanted]
  · rfl
  · exact ⟨unwanted.list, unwanted.sets⟩

/-! ### RENEW, RELEASE, REVOKE (R35 to R37) -/

theorem leaseIdOfByte_of_ne {id : Byte} (h : id ≠ 0) : leaseIdOfByte id = some id := if_neg (by simpa using h)

/-- R25: an id names one lease. -/
theorem LeaseTableOk.eq_of_id {s : State} (ok : LeaseTableOk s) {l m : Lease} (hl : l ∈ s.leases) (hm : m ∈ s.leases)
    (h : m.id = l.id) : m = l := by
  have first := State.leaseOf_of_mem ok.ascending hl
  rw [← h, State.leaseOf_of_mem ok.ascending hm] at first
  exact Option.some.inj first

/-- What a lease command finds by an id. -/
theorem State.leaseOf_holder {s : State} {id : Byte} {p : Port} (h : ∀ l ∈ s.leases, l.id = id → l.holder ≠ p) :
    ∀ l, s.leaseOf id = some l → l.holder ≠ p := fun l hl =>
  h l (List.mem_of_find?_eq_some hl) (by simpa using List.find?_some hl)

theorem renewBody_badArgument (p : Port) {id : Byte} {d : Word16} (h : id = 0 ∨ d.toNat = 0 ∨ 60000 < d.toNat) (s : State) :
    renewBody p (id :: wordBytes d) s = ⟨s, ⟨.badArgument, []⟩⟩ := by
  have away : leaseIdOfByte id = none ∨ durationOf ((d >>> 8).setWidth 8) (d.setWidth 8) = none := by
    rcases h with rfl | h
    · exact .inl rfl
    · exact .inr (durationOf_eq_none h)
  simp only [renewBody, wordBytes]
  split
  · rename_i hid hd
    rw [hid, hd] at away
    simp at away
  · rfl

theorem renewBody_own {s : State} {p : Port} {l : Lease} (ok : LeaseTableOk s) (hl : l ∈ s.leases) (own : l.holder = p)
    {d : Word16} (h1 : 1 ≤ d.toNat) (h2 : d.toNat ≤ 60000) :
    renewBody p (l.id :: wordBytes d) s =
      ⟨s.setLeases (s.leases.map fun m => if m = l then { m with remaining := d, due := false } else m),
        ⟨.ok, [l.id]⟩⟩ := by
  have renewed : (s.leases.map fun x => if x.id == l.id then { x with remaining := d, due := false } else x) =
      s.leases.map fun m => if m = l then { m with remaining := d, due := false } else m := by
    refine List.map_congr_left fun m hm => ?_
    by_cases e : m = l
    · subst e; simp
    · have other : ¬ m.id = l.id := fun h => e (ok.eq_of_id hl hm h)
      simp [e, other]
  simp only [renewBody, wordBytes, leaseIdOfByte_of_ne (ok.records l hl).id, durationOf_wordBytes h1 h2,
    State.leaseOf_of_mem ok.ascending hl, own, beq_self_eq_true, if_true, renewed]

theorem renewBody_notFound {s : State} {p : Port} {id : Byte} (hid : id ≠ 0)
    (h : ∀ l ∈ s.leases, l.id = id → l.holder ≠ p) {d : Word16} (h1 : 1 ≤ d.toNat) (h2 : d.toNat ≤ 60000) :
    renewBody p (id :: wordBytes d) s = ⟨s, ⟨.notFound, []⟩⟩ := by
  simp only [renewBody, wordBytes, leaseIdOfByte_of_ne hid, durationOf_wordBytes h1 h2]
  split
  · rename_i l hl
    rw [if_neg (by simpa using State.leaseOf_holder h l hl)]
    rfl
  · rfl

theorem releaseBody_own {s : State} {p : Port} {l : Lease} (ok : LeaseTableOk s) (hl : l ∈ s.leases) (own : l.holder = p) :
    releaseBody p [l.id] s = ⟨s.setLeases (s.leases.filter fun m => m.id != l.id), ⟨.ok, []⟩⟩ := by
  simp only [releaseBody, leaseIdOfByte_of_ne (ok.records l hl).id, State.leaseOf_of_mem ok.ascending hl, own,
    beq_self_eq_true, if_true]
  rfl

theorem releaseBody_notFound {s : State} {p : Port} {id : Byte} (hid : id ≠ 0)
    (h : ∀ l ∈ s.leases, l.id = id → l.holder ≠ p) : releaseBody p [id] s = ⟨s, ⟨.notFound, []⟩⟩ := by
  simp only [releaseBody, leaseIdOfByte_of_ne hid]
  split
  · rename_i l hl
    rw [if_neg (by simpa using State.leaseOf_holder h l hl)]
    rfl
  · rfl

theorem revokeBody_found {s : State} {l : Lease} (ok : LeaseTableOk s) (hl : l ∈ s.leases) :
    revokeBody [l.id] s =
      ⟨(s.setLeases (s.leases.filter fun m => m.id != l.id)).writeRecord l.holder (leaseRecord .leaseRevoked l),
        ⟨.ok, [l.id, portCode l.holder]⟩⟩ := by
  simp only [revokeBody, leaseIdOfByte_of_ne (ok.records l hl).id, State.leaseOf_of_mem ok.ascending hl]
  rfl

theorem revokeBody_notFound {s : State} {id : Byte} (hid : id ≠ 0) (h : ∀ l ∈ s.leases, l.id ≠ id) :
    revokeBody [id] s = ⟨s, ⟨.notFound, []⟩⟩ := by
  simp only [revokeBody, leaseIdOfByte_of_ne hid, State.leaseOf_eq_none h]
  rfl

/-- Settles O46. -/
theorem leaseCommandsChangeTheTable : Obligations.LeaseCommandsChangeTheTable := by
  refine ⟨fun s p low id d asked free ok => ?_, fun s p low id ok => ⟨fun asked => ?_, fun asked priv => ?_⟩⟩
  · have answered := fun {t : State} {st payload} hbody hport => congrArg (Host.Outcome.next (φ := Fault) (ρ := Refusal))
      (State.takeCommand_of_body (t := t) (st := st) (payload := payload) (body := renewBody p)
        ((s.asked_sampleLines low p _ _).mpr asked) rfl rfl nofun (fun _ => free) hbody hport)
    refine ⟨fun bad => answered (renewBody_badArgument p bad _) rfl, fun h1 h2 => ⟨?_, fun hid h => ?_⟩⟩
    · rintro l hl rfl own
      exact answered (renewBody_own (s := s.sampleLines low) (ok.congr rfl rfl fun _ => id) hl own h1 h2) rfl
    · exact answered (renewBody_notFound (s := s.sampleLines low) hid h h1 h2) rfl
  · have answered := fun {t : State} {st payload} hbody hport => congrArg (Host.Outcome.next (φ := Fault) (ρ := Refusal))
      (State.takeCommand_of_body (t := t) (st := st) (payload := payload) (body := releaseBody p)
        ((s.asked_sampleLines low p _ _).mpr asked) rfl rfl nofun nofun hbody hport)
    refine ⟨?_, fun hid h => answered (releaseBody_notFound (s := s.sampleLines low) hid h) rfl, ?_⟩
    · rintro rfl
      exact answered (st := .badArgument) rfl rfl
    · rintro l hl rfl own
      exact answered (releaseBody_own (s := s.sampleLines low) (ok.congr rfl rfl fun _ => id) hl own) rfl
  · have answered := fun {t : State} {st payload} hbody hport => congrArg (Host.Outcome.next (φ := Fault) (ρ := Refusal))
      (State.takeCommand_of_body (t := t) (st := st) (payload := payload) (body := revokeBody)
        ((s.asked_sampleLines low p _ _).mpr asked) rfl rfl (fun _ => priv) nofun hbody hport)
    refine ⟨?_, fun hid h => answered (revokeBody_notFound (s := s.sampleLines low) hid h) rfl, ?_⟩
    · rintro rfl
      exact answered (st := .badArgument) rfl rfl
    · rintro l hl rfl
      exact answered (revokeBody_found (s := s.sampleLines low) (ok.congr rfl rfl fun _ => id) hl) rfl

end Sys2Proof.Machine
end

section
/-! Management transactions (R155, R156, R159, R160), and what a segment's controller does on its own: START, recovery,
the bus-free check, foreign traffic (R73, R74, R76, R77, R90, R91). -/

namespace Sys2Proof.Machine

/-! ### Management bytes -/

/-- Settles O19: by the room in the buffer, and by whether a byte has been stored. -/
theorem managementWriteIsStoredAndHandedOver : Obligations.ManagementWriteIsStoredAndHandedOver := by
  refine ⟨fun s p b writing => ?_, fun s p writing => ?_⟩
  · have stored : exec (.mgmtDataByte p b) s = .next (s.modPort p (PortCtx.storeByte b)) :=
      congrArg Host.Outcome.next (if_pos (beq_iff_eq.mpr writing))
    refine ⟨fun room => ?_, fun full => ?_⟩
    · exact stored.trans (congrArg Host.Outcome.next (State.modPort_congr s p _ _ (if_pos room)))
    · exact stored.trans (congrArg Host.Outcome.next (State.modPort_congr s p _ _ (if_neg (Nat.not_lt.mpr full))))
  · have ended : ∀ seen, exec (.managementWriteEnd p seen) s = .next (s.modPort p (PortCtx.endWrite seen)) :=
      fun _ => congrArg Host.Outcome.next (if_pos (beq_iff_eq.mpr writing))
    refine ⟨fun bytes seen => ?_, fun empty => ?_⟩
    · rw [ended]
      refine congrArg Host.Outcome.next (State.modPort_congr s p _ _ ?_)
      unfold PortCtx.endWrite
      split <;> first | contradiction | rfl
    · rw [ended]
      refine congrArg Host.Outcome.next (State.modPort_congr s p _ _ ?_)
      simp [PortCtx.endWrite, empty]

/-- The bytes of a list summed from a value. -/
theorem foldl_add_byteSum (bytes : List Byte) (x : Byte) : bytes.foldl (· + ·) x = x + byteSum bytes := by
  induction bytes generalizing x with
  | nil => simp [byteSum]
  | cons b rest ih => rw [List.foldl_cons, ih, byteSum, BitVec.add_assoc]

/-- Settles O20. -/
theorem replyIsReadByteByByte : Obligations.ReplyIsReadByteByByte := by
  refine ⟨fun s p n reading pos => ?_, fun r => ⟨-(byteSum r.body), ?_⟩⟩
  · have next : ∀ a, exec (.mgmtReadAcknowledge p a) s = .next (s.modPort p (PortCtx.readNext a)) :=
      fun _ => congrArg Host.Outcome.next (if_pos (beq_iff_eq.mpr reading))
    constructor
    · rw [next]
      refine congrArg Host.Outcome.next (State.modPort_congr s p _ _ ?_)
      simp only [PortCtx.readNext, pos]
      rfl
    · rw [next]
      rfl
  · obtain ⟨status, payload⟩ := r
    refine ⟨by cases status <;> rfl, ?_⟩
    rw [foldl_add_byteSum, Reply.byteSum_bytes]
    rfl

/-! ### START, the bus-free check, foreign traffic -/

theorem Sgc.formStart_first {c : Sgc} (h : c.retry = 0) :
    c.formStart = { c with line := .address, busBusy := false, formingRs := false, activeRate := c.pendingRate
                           activeStuck := c.pendingStuck } := by
  simp [Sgc.formStart, h, Sgc.loadSettings]

theorem Sgc.formStart_again {c : Sgc} (h : c.retry ≠ 0) :
    c.formStart = { c with line := .address, busBusy := false, formingRs := false } := by
  simp [Sgc.formStart, h]

/-- Settles O21. -/
theorem startIsFormedWhenTheLinesAreFree : Obligations.StartIsFormedWhenTheLinesAreFree := by
  intro s sg waits free
  have formed : exec (.startFormed sg) s = .next (s.modSgc sg Sgc.formStart) :=
    congrArg Host.Outcome.next (if_pos (by rw [waits, free]; rfl))
  refine ⟨fun first => ?_, fun again => ?_⟩
  · rw [formed]
    refine congrArg Host.Outcome.next (State.modSgc_congr s sg _ _ ?_)
    rw [Sgc.formStart_first first, free]
  · rw [formed]
    refine congrArg Host.Outcome.next (State.modSgc_congr s sg _ _ ?_)
    rw [Sgc.formStart_again again, free]

/-- Settles O29: the line state decides each row. -/
theorem foreignTrafficIsFollowed : Obligations.ForeignTrafficIsFollowed := by
  refine ⟨fun s sg => ?_, fun s sg low => ?_⟩
  · have passed : ∀ f : Sgc → Sgc, (s.sgc sg).busFree = f (s.sgc sg) →
        exec (.busFreeCheck sg) s = .next (s.modSgc sg f) := fun f h =>
      congrArg Host.Outcome.next (State.modSgc_congr s sg _ _ h)
    refine ⟨fun line => passed _ ?_, fun line check => passed _ ?_, fun line busy again => passed _ ?_,
      fun line busy first => passed _ ?_⟩
    · simp only [Sgc.busFree, line]
    · rcases line with line | line <;> simp only [Sgc.busFree, line, check, if_true]
    · simp only [Sgc.busFree, line, busy, if_true]
      exact Sgc.formStart_again again
    · simp only [Sgc.busFree, line, busy, if_true]
      exact Sgc.formStart_first first
  · have seen : ∀ (u : BusCondition) (t : State), (s.sampleLines low).conditionSeen sg u = t →
        Host.Outcome.next (φ := Fault) (ρ := Refusal) ((s.sampleLines low).conditionSeen sg u) = .next t :=
      fun _ _ h => congrArg _ h
    refine ⟨fun line => seen _ _ ?_, fun line => seen _ _ ?_, fun line => seen _ _ ?_, fun line => seen _ _ ?_,
      fun line again => seen _ _ ?_, fun line first => seen _ _ ?_, fun line => seen _ _ ?_⟩
    · rcases line with line | line <;> simp only [State.conditionSeen, State.sgc_sampleLines, line]
      refine State.modSgc_congr _ sg _ _ ?_
      rw [State.sgc_sampleLines, ← line]
    · rcases line with line | line | line <;> simp only [State.conditionSeen, State.sgc_sampleLines, line]
    · simp only [State.conditionSeen, State.sgc_sampleLines, line]
    · rcases line with line | line <;> simp only [State.conditionSeen, State.sgc_sampleLines, line]
    · simp only [State.conditionSeen, State.sgc_sampleLines, line]
      exact State.modSgc_congr _ sg _ _ (Sgc.formStart_again again)
    · simp only [State.conditionSeen, State.sgc_sampleLines, line]
      exact State.modSgc_congr _ sg _ _ (Sgc.formStart_first first)
    · simp only [State.conditionSeen, State.sgc_sampleLines, line]

/-! ### Recovery (R90 to R92) -/

/-- Table 4-6, step 4: pulses that leave the data line low, and then what the rest shows. -/
theorem recoveryPulse_low (seen : RecoveryLines) (n k : Nat) (rest : List RecoveryPulse) :
    recoveryPulse seen (n + k) (List.replicate n ⟨true, false⟩ ++ rest) = recoveryPulse seen k rest := by
  induction n with
  | zero => simp
  | succ n ih =>
    rw [List.replicate_succ, List.cons_append, Nat.add_right_comm, recoveryPulse]
    simpa using ih

theorem recoverySequence_success {seen : RecoveryLines} (clock : seen.clockFreed = true)
    (data : seen.dataHigh = true ∨ ∃ n, n ≤ 8 ∧ seen.pulses = List.replicate n ⟨true, false⟩ ++ [⟨true, true⟩])
    (stopClock : seen.stopClock = true) (stopData : seen.stopData = true) :
    recoverySequence seen = some .success := by
  have stop : recoveryStop seen = .success := by simp [recoveryStop, stopClock, stopData]
  unfold recoverySequence
  rw [clock]
  simp only [Bool.not_true, Bool.false_eq_true, if_false]
  split
  · rw [stop]
  · rcases data with data | ⟨n, hn, pulses⟩
    · contradiction
    · have room : Config.recoveryPulses = n + (8 - n + 1) := by simp only [Config.recoveryPulses]; omega
      rw [pulses, room, recoveryPulse_low]
      simp [recoveryPulse, stop]

theorem recoverySequence_failed {seen : RecoveryLines} {d : Detail}
    (h : seen.clockFreed = false ∧ d = .stuckScl ∨
      seen.clockFreed = true ∧ seen.dataHigh = false ∧ seen.pulses = List.replicate 9 ⟨true, false⟩ ∧ d = .stuckSda) :
    ∃ line, recoverySequence seen = some (.failed line) ∧ stuckDetail line = d := by
  rcases h with ⟨clock, rfl⟩ | ⟨clock, data, pulses, rfl⟩
  · exact ⟨.scl, by simp [recoverySequence, clock], rfl⟩
  · refine ⟨.sda, ?_, rfl⟩
    have spent := recoveryPulse_low seen 9 0 []
    rw [List.append_nil, ← pulses] at spent
    simp only [recoverySequence, clock, data, Bool.not_true, Bool.false_eq_true, if_false, Config.recoveryPulses]
    exact spent

/-- Settles O27. -/
theorem recoverySucceeds : Obligations.RecoverySucceeds := by
  intro s sg seen line clock data stopClock stopData recovered
  have ends := recoverySequence_success clock data stopClock stopData
  have succeeds : exec (.recoverySuccess sg seen) s = .next (s.recoverySucceeds sg) := by
    simp only [exec, execRecoverySuccess, ends]
  refine ⟨fun q origin => ?_, fun q origin => ?_⟩
  · rw [succeeds]
    simp only [State.recoverySucceeds, line, origin]
    rfl
  · rw [succeeds]
    simp only [State.recoverySucceeds, line, origin]
    rfl

/-- R92: one record for each other port that holds a lease on the segment. -/
theorem State.log_foldl_writeRecord (ps : List Port) (nodup : ps.Nodup) (b : RecordBody) (s : State) (p : Port) :
    (ps.foldl (fun t q => t.writeRecord q b) s).log p = if p ∈ ps then (s.writeRecord p b).log p else s.log p := by
  induction ps generalizing s with
  | nil => simp
  | cons q rest ih =>
    obtain ⟨fresh, nodupRest⟩ := List.nodup_cons.mp nodup
    rw [List.foldl_cons, ih nodupRest]
    by_cases e : p = q
    · subst e
      simp [fresh]
    · simp [e]

theorem State.foldl_writeRecord_logs (ps : List Port) (b : RecordBody) (s : State) :
    { ps.foldl (fun t q => t.writeRecord q b) s with logs := s.logs } = s := by
  induction ps generalizing s with
  | nil => rfl
  | cons q rest ih =>
    have := ih (s.writeRecord q b)
    rw [List.foldl_cons]
    have same : s = { s.writeRecord q b with logs := s.logs } := rfl
    conv_rhs => rw [same, ← this]

theorem Port.nodup_all : Port.all.Nodup := by decide

theorem State.holdsLeaseOn_iff (s : State) (sg : Seg) (p : Port) :
    s.holdsLeaseOn sg p = true ↔ ∃ l ∈ s.leases, l.seg = sg ∧ l.holder = p := by
  simp [State.holdsLeaseOn]

/-- R13, R116: nobody waits for the segment, so nobody is turned away. -/
theorem State.conditionLeft_unwanted {s : State} {sg : Seg} (h : s.unwanted sg) : s.conditionLeft sg = s := by
  obtain ⟨list, sets⟩ := h
  unfold State.conditionLeft
  simp only [list, List.foldl_nil]
  rw [State.modSeg_self _ _ _ (by rw [← list])]
  exact State.foldl_dropIfPending_none _ sets _

/-- Settles O28. -/
theorem recoveryFails : Obligations.RecoveryFails := by
  intro s sg seen d line unwanted ends q own cause
  obtain ⟨stuckLine, sequence, rfl⟩ := recoverySequence_failed ends
  have fails : exec (.recoveryFailure sg seen) s = .next (s.recoveryFails sg stuckLine) := by
    simp only [exec, execRecoveryFailure, sequence]
  let faulted := s.modSgc sg fun c => { c with line := .faulted, origin := none }
  have left : faulted.conditionLeft sg = faulted := State.conditionLeft_unwanted ⟨unwanted.list, unwanted.sets⟩
  have result : s.recoveryFails sg stuckLine = (Port.all.filter fun p => p != q && s.holdsLeaseOn sg p).foldl
      (fun t p => t.writeRecord p ⟨.segmentFault, none, some sg, none, none, stuckDetail stuckLine⟩)
      (faulted.writeRecord q own) := by
    rcases cause with ⟨origin, rfl⟩ | ⟨origin, rfl⟩
    · simp only [State.recoveryFails, line, origin]
      rw [left]
      rfl
    · simp only [State.recoveryFails, line, origin]
      rw [left]
      rfl
  refine ⟨_, fails, ?_⟩
  rw [result]
  have logs := State.log_foldl_writeRecord _ (Port.nodup_all.filter fun p => p != q && s.holdsLeaseOn sg p)
    ⟨.segmentFault, none, some sg, none, none, stuckDetail stuckLine⟩ (faulted.writeRecord q own)
  refine ⟨congrArg (fun t : State => { t with logs := s.logs }) (State.foldl_writeRecord_logs _ _ (faulted.writeRecord q own)),
    ?_, fun p other => ⟨fun holds => ?_, fun holdsNone => ?_⟩⟩
  · rw [logs, if_neg (by simp)]
    rfl
  · rw [logs, if_pos]
    · rw [State.log_writeRecord_same, State.log_writeRecord_ne _ _ _ other]
      exact (State.log_writeRecord_same s p _).symm
    · rw [List.mem_filter, Bool.and_eq_true]
      exact ⟨Port.mem_all p, by simpa using other, (s.holdsLeaseOn_iff sg p).mpr holds⟩
  · rw [logs, if_neg]
    · rw [State.log_writeRecord_ne _ _ _ other]
      rfl
    · rw [List.mem_filter, Bool.and_eq_true, s.holdsLeaseOn_iff]
      rintro ⟨_, _, l, hl, hs, hp⟩
      exact holdsNone l hl hs hp

end Sys2Proof.Machine
end

section
/-! What a port's byte, STOP, error or expiry does to the segments it owns: each is told on its own, so the controllers
change one by one (R55, R63, R82, R124); and errors, aborts and quarantine on the port's side (R126, R133 to R136). -/

namespace Sys2Proof.Machine

/-! ### Every controller of a list changed on its own -/

/-- A fold that does to each segment of a list one update of its controller, which nothing but that controller decides. -/
theorem State.foldl_eq_mapAll {f : State → Seg → State} {g : Seg → Sgc → Sgc} {s : State} {sgs : List Seg}
    (nodup : sgs.Nodup)
    (each : ∀ t : State, { t with sgcs := s.sgcs } = s → ∀ x ∈ sgs, t.sgc x = s.sgc x → f t x = t.modSgc x (g x)) :
    sgs.foldl f s = { s with sgcs := s.sgcs.mapAll fun x c => if x ∈ sgs then g x c else c } := by
  suffices general : ∀ t : State, { t with sgcs := s.sgcs } = s → (∀ x ∈ sgs, t.sgc x = s.sgc x) →
      sgs.foldl f t = { t with sgcs := t.sgcs.mapAll fun x c => if x ∈ sgs then g x c else c } from
    general s rfl fun _ _ => rfl
  induction sgs with
  | nil =>
    intro t _ _
    have same : (t.sgcs.mapAll fun _ c => c) = t.sgcs := PerSeg.ext_get fun x => by simp
    simp [same]
  | cons a rest ih =>
    intro t ht hx
    obtain ⟨fresh, nodupRest⟩ := List.nodup_cons.mp nodup
    rw [List.foldl_cons, each t ht a List.mem_cons_self (hx a List.mem_cons_self),
      ih nodupRest (fun u hu x hm => each u hu x (List.mem_cons_of_mem _ hm)) (t.modSgc a (g a)) ht fun x hm => by
        rw [State.sgc_modSgc_ne _ _ _ (by rintro rfl; exact fresh hm)]
        exact hx x (List.mem_cons_of_mem _ hm)]
    refine State.ext_parts (fun _ => rfl) (fun _ => rfl) (fun _ => rfl) (fun x => ?_) rfl rfl rfl rfl rfl rfl rfl
    simp only [State.sgc, State.modSgc, PerSeg.get_mapAll]
    by_cases e : x = a
    · subst e; simp [fresh]
    · simp [e]

/-- The controllers named by a test. -/
theorem PerSeg.mapAll_congr {α : Type} {v : PerSeg α} {f g : Seg → α → α} (h : ∀ x, f x (v.get x) = g x (v.get x)) :
    v.mapAll f = v.mapAll g := PerSeg.ext_get fun x => by simpa using h x

theorem State.nodup_ownedBy (s : State) (p : Port) : (s.ownedBy p).Nodup := Seg.nodup_all.filter _

theorem State.mem_ownedBy {s : State} {p : Port} {x : Seg} : x ∈ s.ownedBy p ↔ s.owns p x = true := by
  simp [State.ownedBy, Seg.mem_all]

theorem State.mem_ownedMembers {s : State} {p : Port} {x : Seg} :
    x ∈ s.ownedMembers p ↔ s.markOf p x = some .owned := by
  simp [State.ownedMembers, Seg.mem_all]

theorem State.owns_of_owner {s : State} {p : Port} {k : OwnerKind} {x : Seg} (h : (s.seg x).owner = some ⟨p, k⟩) :
    s.owns p x = true := by simp [State.owns, h]

/-! ### Close requests (R82, R124) -/

theorem State.closeAll_of_owned {s : State} {p : Port} (h : s.ownedBy p ≠ []) :
    s.closeAll p = (s.ownedBy p).foldl State.closeSeg s := by
  unfold State.closeAll
  split
  · contradiction
  · rfl

theorem State.closeAll_alone {s : State} {p : Port} {sg : Seg} (h : s.ownedBy p = [sg]) : s.closeAll p = s.closeSeg sg := by
  rw [State.closeAll_of_owned (by simp [h]), h]
  rfl

theorem State.closeAll_none {s : State} {p : Port} (h : s.ownedBy p = []) : s.closeAll p = s.portReleased p := by
  simp [State.closeAll, h]

theorem State.closeSeg_parked {s : State} {sg : Seg} (h : (s.sgc sg).line = .parked) :
    s.closeSeg sg = s.modSgc sg Sgc.stops := by
  simp only [State.closeSeg, h]
  rfl

theorem State.closeSeg_ackHold {s : State} {sg : Seg} (h : (s.sgc sg).line = .ackHold) :
    s.closeSeg sg = s.modSgc sg fun c => { c.stops with nackOut := true } := by
  simp only [State.closeSeg, h]
  rfl

theorem State.closeSeg_stopping {s : State} {sg : Seg} (h : (s.sgc sg).line = .stopping) : s.closeSeg sg = s := by
  simp only [State.closeSeg, h]

/-- R124: of a port that is ready every PARKED segment is told to send its STOP. -/
theorem State.closeAll_ready {s : State} {p : Port} (h : s.ready p) : s.closeAll p = s.stopsAll p := by
  obtain ⟨some, lines⟩ := h
  rw [State.closeAll_of_owned some, State.foldl_eq_mapAll (g := fun _ c => if c.line == .parked then c.stops else c)
    (s.nodup_ownedBy p)]
  · unfold State.stopsAll
    congr 1
    refine PerSeg.mapAll_congr fun x => ?_
    cases owns : s.owns p x <;> simp [State.mem_ownedBy, owns]
  · intro t _ x hx same
    rcases lines x (State.mem_ownedBy.mp hx) with line | line
    · rw [State.closeSeg_parked (by rw [same, line])]
      exact State.modSgc_congr _ _ _ _ (by simp [same, line])
    · rw [State.closeSeg_stopping (by rw [same, line])]
      exact (State.modSgc_self _ _ _ (by simp [same, line])).symm

/-! ### Address bytes after an RS, and under a pending release (R44, R61, R62, R81) -/

theorem State.resolution_takeLimits (s : State) (p : Port) (b : AddrByte) :
    (s.modPort p PortCtx.takeLimits).resolution p b = s.resolution p b :=
  State.resolution_congr (s := s) (t := s.modPort p PortCtx.takeLimits)
    (by rw [State.port_modPort_same, PortCtx.takeLimits]) rfl rfl rfl (fun _ => rfl) b

theorem State.keptRoute_takeLimits (s : State) (p : Port) (b : AddrByte) :
    (s.modPort p PortCtx.takeLimits).keptRoute p b = s.keptRoute p b := by
  unfold State.keptRoute
  rw [State.resolution_takeLimits]
  rfl

/-- An address byte after an RS, in the two phases that take one while the port owns a segment. -/
theorem State.addressByte_repeated {s : State} {p : Port} (b : AddrByte)
    (phase : (s.port p).phase = .fwdWrite ∨ (s.port p).phase = .awaitEnd) (release : (s.port p).release = none)
    (clock : (s.port p).sclHeld = false) : s.addressByte p b = s.repeatedStart p b := by
  unfold State.addressByte
  rcases phase with phase | phase <;> simp [clock, phase, release]

/-- Settles O12: the byte leads to the segment owned, and the controller forms RS. -/
theorem repeatedStartKeepsTheSegment : Obligations.RepeatedStartKeepsTheSegment := by
  intro s p b low e phase release clock free map leads owner parked
  have route : (s.sampleLines low).keptRoute p b = some ⟨b.addr, e.seg, e.downstream, b.dir⟩ := by
    have decided := leads.resolution map free
    rw [if_neg (by simp [State.condition, parked, lineCondition])] at decided
    simp only [State.keptRoute, State.resolution_sampleLines, decided]
    exact if_pos (by simp [owner])
  refine congrArg Host.Outcome.next ?_
  rw [State.addressByte_repeated (s := s.sampleLines low) b phase release clock]
  simp only [State.repeatedStart, State.keptRoute_takeLimits, route, State.keepSegment, State.modPort_modPort]
  have controller : ((s.sampleLines low).sgc e.seg).repeatStart (.device e.downstream) b.dir =
      { s.sgc e.seg with line := .address, inHand := some ⟨.device e.downstream, b.dir⟩, retry := 0, dataDir := none
                         formingRs := true, nackOut := false } := if_pos (by simp [parked])
  exact (State.modSgc_congr _ e.seg _ _ controller).trans
    (congrArg (fun t : State => t.modSgc e.seg _) (State.modPort_congr _ p _ _ rfl))

/-- R62: the byte is held for the release of what the port owns. -/
theorem State.addressByte_held {s : State} {p : Port} {b : AddrByte}
    (phase : (s.port p).phase = .fwdWrite ∨ (s.port p).phase = .awaitEnd) (release : (s.port p).release = none)
    (clock : (s.port p).sclHeld = false) (kept : s.keptRoute p b = none) :
    s.addressByte p b = (s.modPort p fun c =>
      { c with phase := .awaitEnd, release := some (.address b none), sclHeld := true, out := none
               hold := ⟨c.holdLimit, false⟩, idle := ⟨c.idleLimit, false⟩ }).closeAll p := by
  rw [State.addressByte_repeated b phase release clock]
  simp only [State.repeatedStart, State.keptRoute_takeLimits, kept, State.holdForRelease, State.modPort_modPort]
  rfl

/-! ### The last release of a port that owns nothing (R44, R68, R123) -/

/-- What the last release of a port leaves of it before its pending cause is acted on (R44, R68). -/
def PortCtx.finished (pend : Pending) (c : PortCtx) : PortCtx :=
  { c.ended c.phase with errCount := if endedByStop pend && !c.abortReported then 0 else c.errCount }

theorem State.finishRelease_eq (s : State) (p : Port) (pend : Pending) :
    s.finishRelease p pend =
      (if (s.port p).quarantineHeld then (s.modPort p (PortCtx.finished pend)).enterQuarantine p
        else s.modPort p (PortCtx.finished pend)).actOnPending p pend := by
  have held : ((s.modPort p (PortCtx.finished pend)).port p).quarantineHeld = (s.port p).quarantineHeld := by
    rw [State.port_modPort_same, PortCtx.finished, PortCtx.ended]
  rw [← held]
  rfl

/-- R44, R123: the release of a port that owns nothing is acted on at once, no quarantine being held. -/
theorem State.closeAll_ended {s : State} {p : Port} {f : PortCtx → PortCtx} {pend : Pending}
    (release : (f (s.port p)).release = some pend) (unowned : s.ownedBy p = [])
    (held : (f (s.port p)).quarantineHeld = false) :
    (s.modPort p f).closeAll p = (s.modPort p fun c => (f c).finished pend).actOnPending p pend := by
  have releaseNow : ((s.modPort p f).port p).release = some pend :=
    (congrArg PortCtx.release (State.port_modPort_same s p f)).trans release
  have heldNow : ¬ ((s.modPort p f).port p).quarantineHeld = true := by
    rw [State.port_modPort_same, held]
    exact Bool.false_ne_true
  have unownedNow : (s.modPort p f).ownedBy p = [] := unowned
  rw [State.closeAll_none unownedNow, State.portReleased, releaseNow]
  simp only [unownedNow, List.isEmpty_nil, if_true]
  rw [State.finishRelease_eq, if_neg heldNow, State.modPort_modPort]

/-- R47: resolving looks at the port only after both limits are taken and the byte is no longer held. -/
theorem State.resolve_congr {s t : State} {p : Port} (h : s.modPort p PortCtx.resolving = t.modPort p PortCtx.resolving)
    (b : AddrByte) : s.resolve p b = t.resolve p b := by
  have direct : ∀ u : State, u.resolve p b = (fun v : State => match v.resolution p b with
      | .silentNack => v.modPort p PortCtx.refused
      | .broadcast => v.formBroadcast p
      | .management dir => v.modPort p (PortCtx.enterManagement dir)
      | .refused why sg => v.refuse p (refusalRecord why (some b.addr) (some sg))
      | .route r => v.claimSingle p r) (u.modPort p PortCtx.resolving) := fun _ => rfl
  rw [direct, direct, h]

/-- A lookup of the steps in a port whose transaction has ended. -/
theorem State.keptRoute_none_of_unowned {s : State} {p : Port} (b : AddrByte) (h : s.ownedBy p = []) :
    s.keptRoute p b = none := by
  unfold State.keptRoute
  split
  · rename_i r _
    refine if_neg fun owner => ?_
    have owns := State.mem_ownedBy.mpr (State.owns_of_owner (s := s) (beq_iff_eq.mp owner))
    rw [h] at owns
    exact List.not_mem_nil owns
  all_goals rfl

/-- Settles O13: the STOPs of all segments owned are asked for, or the byte waits, or there is nothing to wait for. -/
theorem addressIsHeldForTheRelease : Obligations.AddressIsHeldForTheRelease := by
  intro s p b low clock
  refine ⟨fun phase release kept ready => ?_, fun e phase release => ?_, fun phase release unowned free => ?_⟩
  · refine congrArg Host.Outcome.next ?_
    rw [State.addressByte_held (s := s.sampleLines low) phase release clock kept]
    exact State.closeAll_ready ready
  · refine congrArg Host.Outcome.next ?_
    unfold State.addressByte
    simp [clock, phase, release, State.holdOver]
  · refine congrArg Host.Outcome.next ?_
    rw [State.addressByte_held (s := s.sampleLines low) (.inr phase) release clock
      (State.keptRoute_none_of_unowned (s := s.sampleLines low) b unowned)]
    refine (State.closeAll_ended (s := s.sampleLines low) (pend := .address b none) ?_ unowned ?_).trans
      (State.resolve_congr ?_ b)
    · rfl
    · exact free
    · simp only [State.modPort_modPort]
      exact State.modPort_congr _ p _ _ rfl

/-! ### Write bytes and acknowledges (R55, R58, R79, R80, R122) -/

theorem State.markOf_of_set {s : State} {p : Port} {set : List Member} (h : (s.port p).bset = some set) (x : Seg) :
    s.markOf p x = markIn set x := by simp [State.markOf, h]

theorem Sgc.sendByte_parked {c : Sgc} (line : c.line = .parked) (dir : c.dataDir = some .write) (b : Byte) :
    c.sendByte b = { c with line := .write, txByte := some b } := if_pos (by simp [line, dir])

theorem State.dataByte_forwarded {s : State} {p : Port} (b : Byte) (phase : (s.port p).phase = .fwdWrite)
    (release : (s.port p).release = none) (clock : (s.port p).sclHeld = false) :
    s.dataByte p b = (s.relaySegs p).foldl (fun t sg => t.modSgc sg (Sgc.sendByte b))
      (s.modPort p fun c => { c with idle := ⟨c.idle.limit, false⟩, sclHeld := true }) := by
  unfold State.dataByte
  simp only [clock, phase, release, Bool.false_eq_true, if_false]
  rfl

theorem State.nodup_ownedMembers (s : State) (p : Port) : (s.ownedMembers p).Nodup := Seg.nodup_all.filter _

/-- R67. -/
theorem PortCtx.countByte_eq (c : PortCtx) : c.countByte = { c with bytesMoved := oneMore c.bytesMoved } := by
  unfold PortCtx.countByte oneMore
  by_cases top : c.bytesMoved = 0xFFFF
  · simp [top]
  · simp only [beq_iff_eq, top, if_false]

theorem Sgc.giveAck_ack {c : Sgc} (line : c.line = .ackHold) : c.giveAck .ack = { c with line := .read } := by
  simp only [Sgc.giveAck, line]

theorem Sgc.giveAck_nack {c : Sgc} (line : c.line = .ackHold) :
    c.giveAck .nack = { c with line := .parked, dataDir := some .read, nackOut := true } := by
  simp only [Sgc.giveAck, line]

/-- R58, R59: a read byte's acknowledge, from a port that owns one segment. -/
theorem State.masterAcknowledge_alone {s : State} {p : Port} {sg : Seg} (phase : (s.port p).phase = .fwdRead)
    (clock : (s.port p).sclHeld = false) (alone : s.ownedBy p = [sg]) (a : AckBit) :
    s.masterAcknowledge p a = match a with
      | .ack => (s.modPort p fun c => { c.countByte.stopIdle with sclHeld := true, out := none }).modSgc sg (Sgc.giveAck a)
      | .nack => (s.modPort p fun c => { c.countByte with phase := .awaitEnd, out := none }).modSgc sg
          (Sgc.giveAck a) := by
  unfold State.masterAcknowledge
  simp only [clock, phase, alone, Bool.false_or, bne_self_eq_false, Bool.false_eq_true, if_false]
  cases a <;> rfl

/-- Settles O14. -/
theorem upstreamBytesAreHandedDown : Obligations.UpstreamBytesAreHandedDown := by
  constructor
  · intro s p b clock held
    refine ⟨fun sg phase release single parked dir => ?_, fun set phase release hset lines => ?_, fun phase => ?_⟩
    · obtain ⟨_, alone, noSet⟩ := single
      refine congrArg Host.Outcome.next ?_
      have segs : s.relaySegs p = [sg] := by simp [State.relaySegs, noSet, alone]
      rw [State.dataByte_forwarded b phase release clock, segs]
      exact State.modSgc_congr held sg _ _ (Sgc.sendByte_parked parked dir b)
    · refine congrArg Host.Outcome.next ?_
      have segs : s.relaySegs p = s.ownedMembers p := by simp [State.relaySegs, hset]
      rw [State.dataByte_forwarded b phase release clock, segs,
        State.foldl_eq_mapAll (g := fun _ => Sgc.sendByte b) (s.nodup_ownedMembers p) fun _ _ _ _ _ => rfl]
      refine congrArg (fun v => { held with sgcs := v }) (PerSeg.mapAll_congr fun x => ?_)
      have mem : x ∈ s.ownedMembers p ↔ markIn set x = some .owned := by
        rw [State.mem_ownedMembers, State.markOf_of_set hset]
      by_cases owned : markIn set x = some .owned
      · obtain ⟨parked, dir⟩ := lines x owned
        rw [if_pos (mem.mpr owned), if_pos owned]
        exact Sgc.sendByte_parked parked dir b
      · rw [if_neg (mem.not.mpr owned), if_neg owned]
    · refine congrArg Host.Outcome.next ?_
      unfold State.dataByte
      rcases phase with phase | phase | phase <;> simp [clock, phase]
  · intro s p sg phase clock single line
    obtain ⟨_, alone, _⟩ := single
    constructor
    · refine congrArg Host.Outcome.next ((State.masterAcknowledge_alone phase clock alone .ack).trans ?_)
      simp only [PortCtx.countByte_eq]
      exact State.modSgc_congr _ sg _ _ (Sgc.giveAck_ack line)
    · refine congrArg Host.Outcome.next ((State.masterAcknowledge_alone phase clock alone .nack).trans ?_)
      simp only [PortCtx.countByte_eq]
      exact State.modSgc_congr _ sg _ _ (Sgc.giveAck_nack line)

/-! ### STOPs (R63) -/

/-- R63: a STOP of a transaction under way. -/
theorem State.upstreamStop_ends {s : State} {p : Port} (clock : (s.port p).sclHeld = false)
    (phase : (s.port p).phase = .fwdWrite ∨ (s.port p).phase = .awaitEnd) (release : (s.port p).release = none) :
    s.upstreamStop p = (s.modPort p fun c =>
      { c with phase := .awaitEnd, release := some (.ending .stop), hold := ⟨c.hold.limit, false⟩
               idle := ⟨c.idle.limit, false⟩ }).closeAll p := by
  unfold State.upstreamStop
  rcases phase with phase | phase <;> simp only [clock, phase, release, Bool.false_eq_true, if_false] <;> rfl

/-- Settles O15: by the port's phase. -/
theorem upstreamStopEndsTheTransaction : Obligations.UpstreamStopEndsTheTransaction := by
  intro s p low clock
  refine ⟨fun phase release ready => ?_, fun phase release unowned free => ?_, fun phase => ?_, fun phase => ?_,
    fun a phase release => ?_, fun phase => ?_⟩ <;> refine congrArg Host.Outcome.next ?_
  · rw [State.upstreamStop_ends (s := s.sampleLines low) clock phase release]
    exact State.closeAll_ready ready
  · rw [State.upstreamStop_ends (s := s.sampleLines low) clock (.inr phase) release]
    refine (State.closeAll_ended (s := s.sampleLines low) (pend := .ending .stop) ?_ unowned ?_).trans ?_
    · rfl
    · exact free
    · simp only [State.actOnPending, State.modPort_modPort]
      refine State.modPort_congr _ p _ _ ?_
      cases reported : (s.port p).abortReported <;>
        simp [PortCtx.finished, PortCtx.ended, PortCtx.endedClean, endedByStop, reported]
  all_goals
    unfold State.upstreamStop
    simp only [State.port_sampleLines, clock, Bool.false_eq_true, if_false]
  · simp only [phase]
  · simp only [phase]
  · simp only [phase, release]
  · simp only [phase]

/-! ### Quarantine (R135, R136) -/

theorem State.enterQuarantine_eq (s : State) (p : Port) : s.enterQuarantine p = s.quarantineEntered p := rfl

theorem State.foldl_writeRecord_modPort (p : Port) (f : PortCtx → PortCtx) (mask : ∀ c, (f c).mask = c.mask)
    (rs : List RecordBody) (s : State) :
    (rs.foldl (fun t r => t.writeRecord p r) s).modPort p f = rs.foldl (fun t r => t.writeRecord p r) (s.modPort p f) := by
  induction rs generalizing s with
  | nil => rfl
  | cons r rest ih => rw [List.foldl_cons, ih, State.modPort_writeRecord _ _ _ _ _ (mask _), List.foldl_cons]

/-- The records of a quarantine entry, in their order. -/
def State.quarantineRecords (s : State) (p : Port) : List RecordBody :=
  (s.leases.filter fun l => l.holder == p).map (leaseRecord .leaseRevoked) ++
    [portRecord .quarantined (.revoked (s.leases.filter fun l => l.holder == p).length)]

/-- The state of a quarantine entry before its records: the flag set, the leases removed. -/
def State.quarantineCleared (s : State) (p : Port) : State :=
  { s with leases := s.leases.filter fun l => l.holder != p }.modPort p fun c =>
    { c with quarantined := true, quarantineHeld := false }

theorem State.quarantineEntered_eq (s : State) (p : Port) :
    s.quarantineEntered p =
      (s.quarantineRecords p).foldl (fun t r => t.writeRecord p r) (s.quarantineCleared p) := by
  rw [State.quarantineRecords, List.foldl_append, List.foldl_map]
  rfl

/-- A quarantine entry and an update of the port that does not touch the flags may be taken in either order. -/
theorem State.modPort_quarantineEntered (s : State) (p : Port) (f : PortCtx → PortCtx) (mask : ∀ c, (f c).mask = c.mask)
    (flags : ∀ c, f { c with quarantined := true, quarantineHeld := false } =
      { f c with quarantined := true, quarantineHeld := false }) :
    (s.quarantineEntered p).modPort p f = (s.modPort p f).quarantineEntered p := by
  rw [State.quarantineEntered_eq, State.quarantineEntered_eq, State.foldl_writeRecord_modPort p f mask]
  refine congrArg (List.foldl _ · _) ?_
  rw [State.quarantineCleared, State.modPort_modPort]
  exact (State.modPort_congr _ p _ _ (flags _)).trans
    (State.modPort_modPort { s with leases := s.leases.filter fun l => l.holder != p } p f _).symm

/-- R135: an error that does not bring the count to 4 enters nothing. -/
theorem State.quarantineCheck_below {s : State} {p : Port} {before : Nat}
    (h : before < 4 → (s.port p).errCount ≠ 4) : s.quarantineCheck p before = s := by
  refine if_neg fun due => ?_
  simp only [Bool.and_eq_true, decide_eq_true_eq, beq_iff_eq] at due
  exact h due.1.1 due.1.2

theorem State.quarantineCheck_now {s : State} {p : Port} {before : Nat} (h : before < 4) (count : (s.port p).errCount = 4)
    (free : (s.port p).quarantined = false) (unowned : s.ownedBy p = []) :
    s.quarantineCheck p before = s.quarantineEntered p := by
  unfold State.quarantineCheck
  rw [if_pos (by simp [h, count, free, Config.quarantineThreshold]), if_pos (by simp [unowned])]
  rfl

theorem State.quarantineCheck_owning {s : State} {p : Port} {before : Nat} (h : before < 4)
    (free : (s.port p).quarantined = false) (owns : s.ownedBy p ≠ []) :
    s.quarantineCheck p before =
      s.modPort p fun c => { c with quarantineHeld := c.quarantineHeld || c.errCount == 4 } := by
  by_cases count : (s.port p).errCount = 4
  · unfold State.quarantineCheck
    rw [if_pos (by simp [h, count, free, Config.quarantineThreshold]), if_neg (by simpa using owns)]
    exact State.modPort_congr s p _ _ (by simp [count])
  · rw [State.quarantineCheck_below fun _ => count]
    refine (State.modPort_self s p _ ?_).symm
    rw [beq_false_of_ne count, Bool.or_false]

/-! ### Errors outside a forwarded transaction (R134, R156) -/

theorem PortCtx.countError_below {c : PortCtx} (h : c.errCount < 4) : c.countError = { c with errCount := c.errCount + 1 } := by
  simp [PortCtx.countError, h]

theorem PortCtx.countError_third {c : PortCtx} (h : c.errCount = 3) : c.countError = { c with errCount := 4 } := by
  simp [PortCtx.countError, h]

theorem PortCtx.countError_eq {c : PortCtx} (h : c.errCount ≤ 4) :
    c.countError = { c with errCount := if c.errCount = 4 then 4 else c.errCount + 1 } := by
  by_cases full : c.errCount = 4
  · simp [PortCtx.countError, full]
  · simp [PortCtx.countError, full, show c.errCount < 4 by omega]

/-- An error that only counts. -/
theorem State.errorCounts_below {s : State} {p : Port} (h : (s.port p).errCount ≤ 2 ∨ (s.port p).errCount = 4)
    (f : PortCtx → PortCtx) : s.errorCounts p f = (s.modPort p PortCtx.countError).modPort p f := by
  show ((s.modPort p PortCtx.countError).quarantineCheck p (s.port p).errCount).modPort p f = _
  rw [State.quarantineCheck_below]
  intro below
  rw [State.port_modPort_same, PortCtx.countError_eq (by omega)]
  simp only
  split <;> omega

/-- The error that brings the count to 4, in a port that owns nothing. -/
theorem State.errorCounts_fourth {s : State} {p : Port} (count : (s.port p).errCount = 3)
    (free : (s.port p).quarantined = false) (unowned : s.ownedBy p = []) (f : PortCtx → PortCtx)
    (mask : ∀ c, (f c).mask = c.mask)
    (flags : ∀ c, f { c with quarantined := true, quarantineHeld := false } =
      { f c with quarantined := true, quarantineHeld := false }) :
    s.errorCounts p f = ((s.modPort p PortCtx.countError).modPort p f).quarantineEntered p := by
  show ((s.modPort p PortCtx.countError).quarantineCheck p (s.port p).errCount).modPort p f = _
  rw [State.quarantineCheck_now (s := s.modPort p PortCtx.countError) (by omega) (by simp [PortCtx.countError, count]) (by simpa [PortCtx.countError] using free)
    unowned]
  exact State.modPort_quarantineEntered _ p f mask flags

theorem State.upstreamBusError_management {s : State} {p : Port} (clock : (s.port p).sclHeld = false)
    (phase : (s.port p).phase = .mgmtWrite ∨ (s.port p).phase = .mgmtRead) (seen : BusCondition) (pos : BitPosition) :
    s.upstreamBusError p seen pos = s.errorCounts p (PortCtx.cutManagement seen) := by
  unfold State.upstreamBusError
  rcases phase with phase | phase <;> simp [clock, PortCtx.party, phase]

/-- What the condition of an error in DRAIN does to the port (Table 7-5). -/
def PortCtx.drainEnded (seen : BusCondition) (c : PortCtx) : PortCtx :=
  { c with phase := if seen == .stop then .idle else .drain }

theorem State.upstreamBusError_drain {s : State} {p : Port} (clock : (s.port p).sclHeld = false)
    (phase : (s.port p).phase = .drain) (seen : BusCondition) (pos : BitPosition) :
    s.upstreamBusError p seen pos = s.errorCounts p (PortCtx.drainEnded seen) := by
  unfold State.upstreamBusError
  simp only [clock, PortCtx.party, phase, Bool.false_or, Bool.not_true, Bool.false_eq_true, if_false]
  rfl

/-- Settles O17: the count is brought to 4, the condition taken, and quarantine entered. -/
theorem fourthErrorQuarantinesAPortThatOwnsNothing : Obligations.FourthErrorQuarantinesAPortThatOwnsNothing := by
  intro s p seen pos low phase clock count free unowned cleared revoked
  refine congrArg Host.Outcome.next ?_
  rw [State.upstreamBusError_drain (s := s.sampleLines low) clock phase,
    State.errorCounts_fourth (s := s.sampleLines low) count free unowned (PortCtx.drainEnded seen) (fun _ => rfl) fun _ => rfl]
  have start : ({ ((s.sampleLines low).modPort p PortCtx.countError).modPort p (PortCtx.drainEnded seen) with
        leases := s.leases.filter fun l => l.holder != p }.modPort p fun c =>
          { c with quarantined := true, quarantineHeld := false }) = cleared := by
    have fused := State.modPort_modPort { s.sampleLines low with leases := s.leases.filter fun l => l.holder != p } p
    refine (congrArg (State.modPort · p _) (fused _ _)).trans ((fused _ _).trans (State.modPort_congr _ p _ _ ?_))
    refine (congrArg (fun c : PortCtx => { c.drainEnded seen with quarantined := true, quarantineHeld := false })
      (PortCtx.countError_third (c := s.port p) count)).trans ?_
    cases seen <;> rfl
  exact congrArg (fun t : State => ((s.leases.filter fun l => l.holder == p).foldl
    (fun t l => t.writeRecord p ⟨.leaseRevoked, none, some l.seg, none, some l.id, .zero⟩) t).writeRecord p
      ⟨.quarantined, none, none, none, none, .revoked (s.leases.filter fun l => l.holder == p).length⟩) start

/-- Settles O18. -/
theorem errorCutsAManagementPhase : Obligations.ErrorCutsAManagementPhase := by
  intro s p seen pos low clock after counted
  refine ⟨fun count => ⟨fun phase => ?_, fun phase => ?_⟩, fun count free unowned phase => ?_⟩ <;>
    refine congrArg Host.Outcome.next ?_
  · rw [State.upstreamBusError_management (s := s.sampleLines low) clock phase,
      State.errorCounts_below (s := s.sampleLines low) count, State.modPort_modPort]
    refine State.modPort_congr _ p _ _ ?_
    rw [PortCtx.countError_eq (c := (s.sampleLines low).port p) (by have := count; simp only [State.port_sampleLines]; omega)]
    cases seen <;> rfl
  · rw [State.upstreamBusError_drain (s := s.sampleLines low) clock phase,
      State.errorCounts_below (s := s.sampleLines low) count, State.modPort_modPort]
    refine State.modPort_congr _ p _ _ ?_
    rw [PortCtx.countError_eq (c := (s.sampleLines low).port p) (by have := count; simp only [State.port_sampleLines]; omega)]
    cases seen <;> rfl
  · rw [State.upstreamBusError_management (s := s.sampleLines low) clock phase,
      State.errorCounts_fourth (s := s.sampleLines low) count free unowned _ (fun _ => by cases seen <;> rfl)
        fun _ => by cases seen <;> rfl, State.modPort_modPort]
    refine congrArg (State.quarantineEntered · p) (State.modPort_congr _ p _ _ ?_)
    rw [PortCtx.countError_eq (c := (s.sampleLines low).port p) (by simp only [State.port_sampleLines]; omega)]
    cases seen <;> rfl

end Sys2Proof.Machine
end

section
/-! Aborts that a port takes and upstream bus errors in a transaction (R65, R126, R128, R133 to R135), with the release of a
port that owns nothing (R44, R123). -/

namespace Sys2Proof.Machine

/-! ### Aborts that a port takes (R65, R126, R128, R133, R135) -/

/-- R126, Table 7-2: the face of an abort outside OPEN, the clock being free. -/
theorem PortCtx.aborted_eq {c : PortCtx} (clock : c.sclHeld = false) (phase : c.phase ≠ .opening) (a : AbortSetter) :
    c.aborted a = c.abortPending (.abort a) := by
  have face : c.abortFace = { c with sclHeld := false, out := none } := by
    unfold PortCtx.abortFace
    split
    · contradiction
    · rw [if_neg (by simp [clock])]
      obtain ⟨⟩ := c
      simp_all
    all_goals rfl
  unfold PortCtx.aborted
  rw [face]
  rfl

/-- The record of an abort of a whole transaction (R129). -/
def PortCtx.abortRecord (cause : AbortCause) (c : PortCtx) : RecordBody :=
  Machine.abortRecord cause c.visible (match c.bset with | some _ => none | none => c.route.map (·.seg)) c.bytesMoved

theorem State.abortPort_eq (s : State) (p : Port) (cause : AbortCause) :
    s.abortPort p cause = (s.modPort p (PortCtx.aborted .cause)).writeRecord p ((s.port p).abortRecord cause) := rfl

/-- The bytes moved once a read byte that an abort cuts has counted or not (R58, R67). -/
def PortCtx.movedAt (pos : BitPosition) (c : PortCtx) : Word16 :=
  match c.phase, pos with
  | .fwdRead, .afterEighth => oneMore c.bytesMoved
  | _, _ => c.bytesMoved

theorem PortCtx.movedAt_read {c : PortCtx} (h : c.phase = .fwdRead) (pos : BitPosition) :
    c.movedAt pos = match pos with
      | .beforeEighth => c.bytesMoved
      | .afterEighth => oneMore c.bytesMoved := by
  cases pos <;> simp only [PortCtx.movedAt, h]

theorem PortCtx.movedAt_of_ne {c : PortCtx} (h : c.phase ≠ .fwdRead) (pos : BitPosition) : c.movedAt pos = c.bytesMoved := by
  unfold PortCtx.movedAt
  split
  · contradiction
  · rfl

theorem PortCtx.countIfClocked_eq (pos : BitPosition) (c : PortCtx) :
    c.countIfClocked pos = { c with bytesMoved := c.movedAt pos } := by
  by_cases h : c.phase = .fwdRead
  · rw [PortCtx.movedAt_read h]
    cases pos with
    | beforeEighth =>
      unfold PortCtx.countIfClocked
      split
      · contradiction
      · rfl
    | afterEighth =>
      rw [← PortCtx.countByte_eq]
      simp only [PortCtx.countIfClocked, h]
  · rw [PortCtx.movedAt_of_ne h]
    unfold PortCtx.countIfClocked
    split
    · contradiction
    · rfl

theorem State.closeAll_parked {t : State} {p : Port} {sg : Seg} (alone : t.ownedBy p = [sg])
    (line : (t.sgc sg).line = .parked) : t.closeAll p = t.modSgc sg Sgc.stops :=
  (State.closeAll_alone alone).trans (State.closeSeg_parked line)

theorem State.closeAll_ackHold {t : State} {p : Port} {sg : Seg} (alone : t.ownedBy p = [sg])
    (line : (t.sgc sg).line = .ackHold) : t.closeAll p = t.modSgc sg fun c => { c.stops with nackOut := true } :=
  (State.closeAll_alone alone).trans (State.closeSeg_ackHold line)

/-- R65: an owner idle expiry outside OPEN, the clock being free: the abort, and then the close of what the port owns. -/
theorem State.ownerIdleExpiry_eq {s : State} {p : Port} (running : (s.port p).idle.running = true)
    (clock : (s.port p).sclHeld = false) (phase : (s.port p).phase ≠ .opening) (pos : BitPosition) :
    s.ownerIdleExpiry p pos =
      ((s.modPort p fun c => { c.abortPending (.abort .cause) with bytesMoved := (s.port p).movedAt pos }).writeRecord p
        (PortCtx.abortRecord .ownerIdle { s.port p with bytesMoved := (s.port p).movedAt pos })).closeAll p := by
  unfold State.ownerIdleExpiry
  rw [if_neg (by simp [running]), State.abortPort_eq, State.port_modPort_same, PortCtx.countIfClocked_eq,
    State.modPort_modPort]
  refine congrArg (fun t : State => (t.writeRecord p _).closeAll p) (State.modPort_congr s p _ _ ?_)
  rw [PortCtx.countIfClocked_eq]
  exact PortCtx.aborted_eq (c := { s.port p with bytesMoved := (s.port p).movedAt pos }) clock phase _

/-- Settles O35: the abort is told to the port, and each segment owned is closed by its line state. -/
theorem ownerIdleExpiryAborts : Obligations.OwnerIdleExpiryAborts := by
  intro s p pos low running clock after
  have taken : ∀ {visible sg}, (s.port p).phase ≠ .opening →
      PortCtx.abortRecord .ownerIdle { s.port p with bytesMoved := (s.port p).movedAt pos } =
        ⟨.abortOwnerIdle, some visible, sg, some ((s.port p).movedAt pos), none, .zero⟩ →
      exec (.ownerIdleExpiry p pos low) s = .next ((after ((s.port p).movedAt pos) visible sg).closeAll p) := by
    intro visible sg phase record
    refine congrArg Host.Outcome.next ((State.ownerIdleExpiry_eq (s := s.sampleLines low) running clock phase pos).trans ?_)
    exact congrArg (fun r => (State.writeRecord _ p r).closeAll p) record
  refine ⟨fun r single route => ?_, fun phase set ready => ?_⟩
  · obtain ⟨owner, alone, noSet⟩ := single
    have record : PortCtx.abortRecord .ownerIdle { s.port p with bytesMoved := (s.port p).movedAt pos } =
        ⟨.abortOwnerIdle, some r.visible, some r.seg, some ((s.port p).movedAt pos), none, .zero⟩ := by
      simp [PortCtx.abortRecord, abortRecord, PortCtx.visible, noSet, route]
    refine ⟨fun phase line => ?_, fun phase line => ?_⟩
    · obtain ⟨notOpen, notRead⟩ : (s.port p).phase ≠ .opening ∧ (s.port p).phase ≠ .fwdRead := by
        rcases phase with phase | phase <;> simp [phase]
      rw [taken notOpen record, PortCtx.movedAt_of_ne notRead]
      exact congrArg Host.Outcome.next (State.closeAll_parked (t := after _ _ _) alone line)
    · rw [taken (by simp [phase]) record, PortCtx.movedAt_read phase]
      exact congrArg Host.Outcome.next (State.closeAll_ackHold (t := after _ _ _) alone line)
  · obtain ⟨notOpen, notRead⟩ : (s.port p).phase ≠ .opening ∧ (s.port p).phase ≠ .fwdRead := by
      rcases phase with phase | phase <;> simp [phase]
    obtain ⟨set, hset⟩ := Option.ne_none_iff_exists'.mp set
    have record : PortCtx.abortRecord .ownerIdle { s.port p with bytesMoved := (s.port p).movedAt pos } =
        ⟨.abortOwnerIdle, some 0, none, some ((s.port p).movedAt pos), none, .zero⟩ := by
      simp [PortCtx.abortRecord, abortRecord, PortCtx.visible, hset]
    rw [taken notOpen record, PortCtx.movedAt_of_ne notRead]
    exact congrArg Host.Outcome.next (State.closeAll_ready (s := after _ _ _) ready)

/-! ### Upstream bus errors in a transaction (R133 to R135) -/

/-- What an error's condition leaves pending where an abort is (R133, R134): a STOP puts END in its place. -/
def errorPends (a : AbortSetter) : BusCondition → Ending
  | .stop => .stopAfterAbort a
  | .start => .abort a

/-- What an error that aborts does to the port before quarantine is looked at (R126, R133). -/
def PortCtx.errorAborted (seen : BusCondition) (moved : Word16) (c : PortCtx) : PortCtx :=
  { c.abortPending (errorPends .cause seen) with errCount := c.errCount + 1, bytesMoved := moved }

theorem State.upstreamBusError_aborts {s : State} {p : Port} (clock : (s.port p).sclHeld = false)
    (phase : (s.port p).phase = .fwdWrite ∨ (s.port p).phase = .fwdRead ∨ (s.port p).phase = .awaitEnd)
    (release : (s.port p).release = none) (seen : BusCondition) (pos : BitPosition) :
    s.upstreamBusError p seen pos = s.errorAborts p seen pos := by
  unfold State.upstreamBusError
  rcases phase with phase | phase | phase <;> simp [clock, PortCtx.party, phase, release]

/-- The abort of an error, the count below 4 before it. -/
theorem State.errorAborts_abortPort {s : State} {p : Port} (clock : (s.port p).sclHeld = false)
    (phase : (s.port p).phase ≠ .opening) (count : (s.port p).errCount ≤ 3) (pos : BitPosition) :
    (s.modPort p fun c => (c.countIfClocked pos).countError).abortPort p .upstreamError =
      (s.modPort p (PortCtx.errorAborted .start ((s.port p).movedAt pos))).writeRecord p
        (PortCtx.abortRecord .upstreamError { s.port p with bytesMoved := (s.port p).movedAt pos }) := by
  have counted : ((s.port p).countIfClocked pos).countError =
      { s.port p with bytesMoved := (s.port p).movedAt pos, errCount := (s.port p).errCount + 1 } := by
    rw [PortCtx.countIfClocked_eq, PortCtx.countError_below]
    exact Nat.lt_succ_of_le count
  rw [State.abortPort_eq, State.port_modPort_same, State.modPort_modPort, counted]
  refine congrArg (State.writeRecord · p _) (State.modPort_congr s p _ _ ?_)
  rw [counted]
  exact PortCtx.aborted_eq (c := { s.port p with bytesMoved := (s.port p).movedAt pos
                                                 errCount := (s.port p).errCount + 1 }) clock phase _

/-- The condition of the error taken once its abort is pending. -/
def State.conditionTaken (s : State) (p : Port) : BusCondition → State
  | .stop => s.modPort p fun c => { c with release := some (.ending (.stopAfterAbort .cause)) }
  | .start => s

theorem State.errorAborts_eq (s : State) (p : Port) (seen : BusCondition) (pos : BitPosition) :
    s.errorAborts p seen pos =
      (((((s.modPort p fun c => (c.countIfClocked pos).countError).abortPort p .upstreamError).quarantineCheck p
        (s.port p).errCount)).conditionTaken p seen).closeAll p := by
  cases seen <;> rfl

theorem State.conditionTaken_errorAborted (s : State) (p : Port) (seen : BusCondition) (moved : Word16) (r : RecordBody) :
    ((s.modPort p (PortCtx.errorAborted .start moved)).writeRecord p r).conditionTaken p seen =
      (s.modPort p (PortCtx.errorAborted seen moved)).writeRecord p r := by
  cases seen with
  | stop =>
    rw [State.conditionTaken, State.modPort_writeRecord _ _ _ _ _ rfl, State.modPort_modPort]
    rfl
  | start => rfl

theorem State.conditionTaken_modPort (s : State) (p : Port) (seen : BusCondition) (f : PortCtx → PortCtx)
    (h : ∀ c e, f { c with release := e } = { f c with release := e }) :
    (s.modPort p f).conditionTaken p seen = (s.conditionTaken p seen).modPort p f := by
  cases seen with
  | stop =>
    rw [State.conditionTaken, State.conditionTaken, State.modPort_modPort, State.modPort_modPort]
    exact State.modPort_congr s p _ _ (h _ _).symm
  | start => rfl

/-- R133, R135: an error in a transaction of a port that owns a segment. -/
theorem State.errorAborts_owning {s : State} {p : Port} (clock : (s.port p).sclHeld = false)
    (phase : (s.port p).phase ≠ .opening) (count : (s.port p).errCount ≤ 3) (free : (s.port p).quarantined = false)
    (owns : s.ownedBy p ≠ []) (seen : BusCondition) (pos : BitPosition) :
    s.errorAborts p seen pos = ((s.modPort p fun c =>
      { c.abortPending (errorPends .cause seen) with
        errCount := c.errCount + 1, bytesMoved := (s.port p).movedAt pos
        quarantineHeld := c.quarantineHeld || c.errCount == 3 }).writeRecord p
      (PortCtx.abortRecord .upstreamError { s.port p with bytesMoved := (s.port p).movedAt pos })).closeAll p := by
  rw [State.errorAborts_eq, State.errorAborts_abortPort clock phase count pos]
  have checked := State.quarantineCheck_owning (before := (s.port p).errCount)
    (s := (s.modPort p (PortCtx.errorAborted .start ((s.port p).movedAt pos))).writeRecord p
      (PortCtx.abortRecord .upstreamError { s.port p with bytesMoved := (s.port p).movedAt pos })) (p := p)
    (Nat.lt_succ_of_le count) (by simpa [PortCtx.errorAborted, PortCtx.abortPending] using free) owns
  rw [checked, State.conditionTaken_modPort _ _ _ _ fun _ _ => rfl, State.conditionTaken_errorAborted,
    State.modPort_writeRecord _ _ _ _ _ rfl, State.modPort_modPort]
  refine congrArg (fun t : State => (t.writeRecord p _).closeAll p) (State.modPort_congr s p _ _ ?_)
  have fourth : ((s.port p).errCount + 1 == 4) = ((s.port p).errCount == 3) := by
    rw [Bool.eq_iff_iff, beq_iff_eq, beq_iff_eq]
    omega
  simp only [PortCtx.errorAborted, PortCtx.abortPending, fourth]

/-! ### The end of a transaction that owns nothing (R123, R135) -/

/-- The phase in which an ending leaves the port (R44). -/
def Ending.phaseAfter : Ending → Phase
  | .stop | .hold | .stopAfterAbort _ => .idle
  | .abort _ => .drain

theorem State.actOnPending_ending (s : State) (p : Port) (e : Ending) :
    s.actOnPending p (.ending e) = s.modPort p fun c => { c with phase := Ending.phaseAfter e } := by
  cases e <;> rfl

/-- A port after a release that END or ABORT waited for. -/
def PortCtx.acted (e : Ending) (c : PortCtx) : PortCtx := { c.finished (.ending e) with phase := Ending.phaseAfter e }

/-- R44: with nothing left to release and no quarantine held, END or ABORT is acted on at once. -/
theorem State.closeAll_released {s : State} {p : Port} {e : Ending} (release : (s.port p).release = some (.ending e))
    (unowned : s.ownedBy p = []) (held : (s.port p).quarantineHeld = false) :
    s.closeAll p = s.modPort p (PortCtx.acted e) := by
  have self : s.modPort p id = s := State.modPort_self s p id rfl
  have ended := State.closeAll_ended (f := id) release unowned held
  rw [self] at ended
  rw [ended, State.actOnPending_ending, State.modPort_modPort]
  rfl

theorem State.foldl_writeRecords_logs (rs : List RecordBody) (p : Port) (s : State) :
    { rs.foldl (fun t r => t.writeRecord p r) s with logs := s.logs } = s := by
  induction rs generalizing s with
  | nil => rfl
  | cons r rest ih =>
    have same : s = { s.writeRecord p r with logs := s.logs } := rfl
    conv_rhs => rw [same, ← ih (s.writeRecord p r)]
    rfl

theorem State.port_quarantineEntered (s : State) (p : Port) :
    (s.quarantineEntered p).port p = { s.port p with quarantined := true, quarantineHeld := false } := by
  have ports := congrArg State.ports (State.foldl_writeRecords_logs (s.quarantineRecords p) p (s.quarantineCleared p))
  rw [State.quarantineEntered_eq]
  refine (congrArg (PerPort.get · p) ports).trans ?_
  exact State.port_modPort_same { s with leases := s.leases.filter fun l => l.holder != p } p _

@[simp] theorem State.segs_quarantineEntered (s : State) (p : Port) : (s.quarantineEntered p).segs = s.segs := by
  have segs := congrArg State.segs (State.foldl_writeRecords_logs (s.quarantineRecords p) p (s.quarantineCleared p))
  rw [State.quarantineEntered_eq]
  exact segs

@[simp] theorem State.sgcs_quarantineEntered (s : State) (p : Port) : (s.quarantineEntered p).sgcs = s.sgcs := by
  have sgcs := congrArg State.sgcs (State.foldl_writeRecords_logs (s.quarantineRecords p) p (s.quarantineCleared p))
  rw [State.quarantineEntered_eq]
  exact sgcs

theorem State.ownedBy_quarantineEntered (s : State) (p q : Port) : (s.quarantineEntered p).ownedBy q = s.ownedBy q := by
  unfold State.ownedBy
  congr 1
  funext x
  simp only [State.owns, State.seg, State.segs_quarantineEntered]

theorem State.conditionTaken_quarantineEntered (s : State) (p : Port) (seen : BusCondition) :
    (s.quarantineEntered p).conditionTaken p seen = (s.conditionTaken p seen).quarantineEntered p := by
  cases seen with
  | stop => exact State.modPort_quarantineEntered s p _ (fun _ => rfl) fun _ => rfl
  | start => rfl

/-- What an error leaves of a port whose broadcast owns nothing any more. -/
def PortCtx.errorEnded (seen : BusCondition) (moved : Word16) (c : PortCtx) : PortCtx :=
  { c.ended (Ending.phaseAfter (errorPends .cause seen)) with
    errCount := c.errCount + 1, bytesMoved := moved, abortReported := true, out := none }

theorem PortCtx.acted_errorAborted {c : PortCtx} (clock : c.sclHeld = false) (seen : BusCondition) (moved : Word16) :
    (c.errorAborted seen moved).acted (errorPends .cause seen) = c.errorEnded seen moved := by
  obtain ⟨⟩ := c
  subst clock
  cases seen <;> rfl

/-- R133, R135: an error in a broadcast whose port owns nothing any more ends it at once. -/
theorem State.errorAborts_unowned {s : State} {p : Port} (clock : (s.port p).sclHeld = false)
    (phase : (s.port p).phase ≠ .opening) (count : (s.port p).errCount ≤ 3) (free : (s.port p).quarantined = false)
    (unowned : s.ownedBy p = []) (held : (s.port p).quarantineHeld = false) (seen : BusCondition) (pos : BitPosition) :
    s.errorAborts p seen pos =
      (fun ended : State => if (s.port p).errCount = 3 then ended.quarantineEntered p else ended)
        ((s.modPort p (PortCtx.errorEnded seen ((s.port p).movedAt pos))).writeRecord p
          (PortCtx.abortRecord .upstreamError { s.port p with bytesMoved := (s.port p).movedAt pos })) := by
  rw [State.errorAborts_eq, State.errorAborts_abortPort clock phase count pos]
  generalize PortCtx.abortRecord .upstreamError { s.port p with bytesMoved := (s.port p).movedAt pos } = r
  generalize (s.port p).movedAt pos = moved
  have port : ∀ u, ((s.modPort p (PortCtx.errorAborted u moved)).writeRecord p r).port p =
      (s.port p).errorAborted u moved := fun u => State.port_modPort_same s p _
  have acted : ((s.modPort p (PortCtx.errorAborted seen moved)).writeRecord p r).modPort p
      (PortCtx.acted (errorPends .cause seen)) = (s.modPort p (PortCtx.errorEnded seen moved)).writeRecord p r := by
    rw [State.modPort_writeRecord _ _ _ _ _ rfl, State.modPort_modPort]
    exact congrArg (State.writeRecord · p r) (State.modPort_congr s p _ _ (PortCtx.acted_errorAborted clock seen moved))
  by_cases third : (s.port p).errCount = 3
  · have entered := State.quarantineCheck_now (s := (s.modPort p (PortCtx.errorAborted .start moved)).writeRecord p r) (p := p)
      (before := (s.port p).errCount) (by omega) (by rw [port]; exact congrArg (· + 1) third) (by rw [port]; exact free)
      unowned
    rw [entered, State.conditionTaken_quarantineEntered, State.conditionTaken_errorAborted]
    have release : ((((s.modPort p (PortCtx.errorAborted seen moved)).writeRecord p r).quarantineEntered p).port p).release =
        some (.ending (errorPends .cause seen)) := by rw [State.port_quarantineEntered, port]; rfl
    rw [State.closeAll_released release ((State.ownedBy_quarantineEntered _ p p).trans unowned)
      (by rw [State.port_quarantineEntered]), State.modPort_quarantineEntered _ _ (PortCtx.acted _) (fun _ => rfl) fun _ => rfl,
      acted]
    exact (if_pos third).symm
  · have below := State.quarantineCheck_below (s := (s.modPort p (PortCtx.errorAborted .start moved)).writeRecord p r) (p := p)
      (before := (s.port p).errCount) fun _ => by rw [port]; simp only [PortCtx.errorAborted]; omega
    rw [below, State.conditionTaken_errorAborted, State.closeAll_released
      (s := (s.modPort p (PortCtx.errorAborted seen moved)).writeRecord p r) (e := errorPends .cause seen)
      (by rw [port]; rfl) unowned (by rw [port]; exact held), acted]
    exact (if_neg third).symm

/-! ### An error while ABORT is pending (R134) -/

theorem State.upstreamBusError_pending {s : State} {p : Port} {a : AbortSetter} (clock : (s.port p).sclHeld = false)
    (phase : (s.port p).phase = .awaitEnd) (release : (s.port p).release = some (.ending (.abort a)))
    (seen : BusCondition) (pos : BitPosition) :
    s.upstreamBusError p seen pos = s.errorCounts p fun c =>
      { c with release := if seen == .stop then some (.ending (.stopAfterAbort a)) else c.release } := by
  unfold State.upstreamBusError
  simp only [clock, PortCtx.party, phase, release, Bool.false_or, Bool.not_true, Bool.false_eq_true, if_false]

/-- R134, R135: the count goes up by one; the error that brings it to 4 is held for the release. -/
theorem State.errorCounts_owning {s : State} {p : Port} (count : (s.port p).errCount ≤ 3)
    (free : (s.port p).quarantined = false) (owns : s.ownedBy p ≠ []) (f : PortCtx → PortCtx) :
    s.errorCounts p f = s.modPort p fun c => f { c with
      errCount := c.errCount + 1, quarantineHeld := c.quarantineHeld || c.errCount == 3 } := by
  show ((s.modPort p PortCtx.countError).quarantineCheck p (s.port p).errCount).modPort p f = _
  rw [State.quarantineCheck_owning (s := s.modPort p PortCtx.countError) (Nat.lt_succ_of_le count)
    (by simpa [PortCtx.countError] using free) owns, State.modPort_modPort, State.modPort_modPort]
  refine State.modPort_congr s p _ _ ?_
  have fourth : ((s.port p).errCount + 1 == 4) = ((s.port p).errCount == 3) := by
    rw [Bool.eq_iff_iff, beq_iff_eq, beq_iff_eq]
    omega
  rw [PortCtx.countError_below (Nat.lt_succ_of_le count)]
  simp only [fourth]

/-- Settles O16: by what the port owns, and by what is pending. -/
theorem upstreamErrorAbortsTheTransaction : Obligations.UpstreamErrorAbortsTheTransaction := by
  constructor
  · intro s p seen pos low release clock count free pend after
    have pends : pend = errorPends .cause seen := by cases seen <;> rfl
    have aborts : ∀ {visible sg}, ((s.port p).phase = .fwdWrite ∨ (s.port p).phase = .fwdRead ∨ (s.port p).phase = .awaitEnd) →
        s.ownedBy p ≠ [] →
        PortCtx.abortRecord .upstreamError { s.port p with bytesMoved := (s.port p).movedAt pos } =
          ⟨.abortUpstreamError, some visible, sg, some ((s.port p).movedAt pos), none, .zero⟩ →
        exec (.upstreamBusError p seen pos low) s = .next ((after ((s.port p).movedAt pos) visible sg).closeAll p) := by
      intro visible sg phase owns record
      have notOpen : (s.port p).phase ≠ .opening := by rcases phase with phase | phase | phase <;> simp [phase]
      refine congrArg Host.Outcome.next ((State.upstreamBusError_aborts (s := s.sampleLines low) clock phase release seen
        pos).trans ((State.errorAborts_owning (s := s.sampleLines low) clock notOpen count free owns seen pos).trans ?_))
      simp only [after, pends]
      exact congrArg (fun r => (State.writeRecord _ p r).closeAll p) record
    refine ⟨fun r route single => ?_, fun phase set ready => ?_, fun phase set unowned held => ?_⟩
    · obtain ⟨owner, alone, noSet⟩ := single
      have owns : s.ownedBy p ≠ [] := by simp [alone]
      have record : PortCtx.abortRecord .upstreamError { s.port p with bytesMoved := (s.port p).movedAt pos } =
          ⟨.abortUpstreamError, some r.visible, some r.seg, some ((s.port p).movedAt pos), none, .zero⟩ := by
        simp [PortCtx.abortRecord, abortRecord, PortCtx.visible, noSet, route]
      refine ⟨fun phase line => ?_, fun phase line => ?_⟩
      · have notRead : (s.port p).phase ≠ .fwdRead := by rcases phase with phase | phase <;> simp [phase]
        rw [aborts (phase.elim .inl fun h => .inr (.inr h)) owns record, PortCtx.movedAt_of_ne notRead]
        exact congrArg Host.Outcome.next (State.closeAll_parked (t := after _ _ _) alone line)
      · rw [aborts (.inr (.inl phase)) owns record, PortCtx.movedAt_read phase]
        exact congrArg Host.Outcome.next (State.closeAll_ackHold (t := after _ _ _) alone line)
    · have notRead : (s.port p).phase ≠ .fwdRead := by rcases phase with phase | phase <;> simp [phase]
      obtain ⟨set, hset⟩ := Option.ne_none_iff_exists'.mp set
      have record : PortCtx.abortRecord .upstreamError { s.port p with bytesMoved := (s.port p).movedAt pos } =
          ⟨.abortUpstreamError, some 0, none, some ((s.port p).movedAt pos), none, .zero⟩ := by
        simp [PortCtx.abortRecord, abortRecord, PortCtx.visible, hset]
      rw [aborts (phase.elim .inl fun h => .inr (.inr h)) ready.1 record, PortCtx.movedAt_of_ne notRead]
      exact congrArg Host.Outcome.next (State.closeAll_ready (s := after _ _ _) ready)
    · intro ended
      obtain ⟨set, hset⟩ := Option.ne_none_iff_exists'.mp set
      have notRead : (s.port p).phase ≠ .fwdRead := by simp [phase]
      have record : PortCtx.abortRecord .upstreamError { s.port p with bytesMoved := (s.port p).bytesMoved } =
          ⟨.abortUpstreamError, some 0, none, some (s.port p).bytesMoved, none, .zero⟩ := by
        simp [PortCtx.abortRecord, abortRecord, PortCtx.visible, hset]
      refine congrArg Host.Outcome.next ((State.upstreamBusError_aborts (s := s.sampleLines low) clock (.inr (.inr phase))
        release seen pos).trans ((State.errorAborts_unowned (s := s.sampleLines low) clock (by simp [phase]) count free
          unowned held seen pos).trans ?_))
      have same : ((s.sampleLines low).modPort p (PortCtx.errorEnded seen (s.port p).bytesMoved)).writeRecord p
          ⟨.abortUpstreamError, some 0, none, some (s.port p).bytesMoved, none, .zero⟩ = ended := by
        refine congrArg (State.writeRecord · p _) (State.modPort_congr _ p _ _ ?_)
        cases seen <;> rfl
      rw [State.port_sampleLines, PortCtx.movedAt_of_ne notRead, record, same]
  · intro s p seen pos low a phase release clock owns free pend
    have pending := State.upstreamBusError_pending (s := s.sampleLines low) clock phase release seen pos
    refine ⟨fun count => ?_, fun count => ?_⟩ <;> refine congrArg Host.Outcome.next (pending.trans ?_)
    · refine (State.errorCounts_owning (s := s.sampleLines low) count free owns _).trans (State.modPort_congr _ p _ _ ?_)
      cases seen <;> simp [pend, release]
    · refine (State.errorCounts_below (s := s.sampleLines low) (.inr count) _).trans ?_
      rw [State.modPort_modPort]
      refine State.modPort_congr _ p _ _ ?_
      have full : ((s.sampleLines low).port p).countError = s.port p := by
        rw [PortCtx.countError, State.port_sampleLines, if_neg (by simp [count])]
      rw [full]
      cases seen <;> simp [pend, release]

end Sys2Proof.Machine
end

section
/-! Results that a segment gives its owner: the acknowledges of the address and of bytes, and read bytes (R53, R55, R57,
R78 to R80), in a single transaction and in a broadcast (R120, R122, R123). -/

namespace Sys2Proof.Machine

/-! ### An abort cause as a result is the event of its own row -/

theorem exec_addressResult_cause {s : State} {sg : Seg} (line : (s.sgc sg).line = .address) (low : List Seg) :
    exec (.addressResult sg .lost low) s = exec (.arbitrationLoss sg .bit low) s ∧
    exec (.addressResult sg (.stuck .scl) low) s = exec (.stuckScl sg low) s ∧
    exec (.addressResult sg (.stuck .sda) low) s = exec (.stuckSda sg low) s ∧
    exec (.addressResult sg (.busError .start) low) s = exec (.startSeen sg low) s ∧
    exec (.addressResult sg (.busError .stop) low) s = exec (.stopSeen sg low) s := by
  have here : (((s.sampleLines low).sgc sg).line == .address) = true := beq_iff_eq.mpr line
  refine ⟨?_, ?_, ?_, ?_, ?_⟩ <;> exact congrArg Host.Outcome.next (if_pos here)

theorem exec_byteResult_cause {s : State} {sg : Seg} (line : (s.sgc sg).line = .write) (low : List Seg) :
    exec (.byteResult sg .lost low) s = exec (.arbitrationLoss sg .bit low) s ∧
    exec (.byteResult sg (.stuck .scl) low) s = exec (.stuckScl sg low) s ∧
    exec (.byteResult sg (.stuck .sda) low) s = exec (.stuckSda sg low) s ∧
    exec (.byteResult sg (.busError .start) low) s = exec (.startSeen sg low) s ∧
    exec (.byteResult sg (.busError .stop) low) s = exec (.stopSeen sg low) s := by
  have here : (((s.sampleLines low).sgc sg).line == .write) = true := beq_iff_eq.mpr line
  refine ⟨?_, ?_, ?_, ?_, ?_⟩ <;> exact congrArg Host.Outcome.next (if_pos here)

/-! ### Acknowledges -/

/-- R78: an acknowledge of an address byte outside a close is the owner's result. -/
theorem State.addressAcked_open {s : State} {sg : Seg} {o : Owner} (owner : (s.seg sg).owner = some o)
    (line : (s.sgc sg).line = .address) (closing : (s.sgc sg).closing = false) (a : AckBit) :
    s.addressAcked sg a = (s.modSgc sg (Sgc.addressDone a)).takeAddressResult o sg a
      ((s.sgc sg).inHand.map (·.dir) == some .read) := by
  unfold State.addressAcked
  simp [owner, line, closing]

/-- Table 4-4: within a close it is not. -/
theorem State.addressAcked_closing {s : State} {sg : Seg} (line : (s.sgc sg).line = .address)
    (closing : (s.sgc sg).closing = true) (a : AckBit) : s.addressAcked sg a = s.modSgc sg (Sgc.addressDone a) := by
  unfold State.addressAcked
  simp only [line, closing, bne_self_eq_false, Bool.false_eq_true, if_false, if_true]
  split <;> rfl

theorem State.byteAcked_open {s : State} {sg : Seg} {o : Owner} (owner : (s.seg sg).owner = some o)
    (line : (s.sgc sg).line = .write) (closing : (s.sgc sg).closing = false) (a : AckBit) :
    s.byteAcked sg a = (s.modSgc sg Sgc.byteDone).takeByteResult o sg a := by
  unfold State.byteAcked
  simp [owner, line, closing]

theorem State.byteAcked_closing {s : State} {sg : Seg} (line : (s.sgc sg).line = .write)
    (closing : (s.sgc sg).closing = true) (a : AckBit) : s.byteAcked sg a = s.modSgc sg Sgc.byteDone := by
  unfold State.byteAcked
  simp only [line, closing, bne_self_eq_false, Bool.false_eq_true, if_false, if_true]
  split <;> rfl

/-- A relayed result, as the controller's update after the port's. -/
theorem State.relay_eq {s : State} {sg : Seg} {p : Port} {f g : Sgc → Sgc} {h k : PortCtx → PortCtx}
    (controller : f (s.sgc sg) = g (s.sgc sg)) (port : h (s.port p) = k (s.port p)) :
    (s.modSgc sg f).modPort p h = (s.modPort p k).modSgc sg g := by
  rw [State.modSgc_congr s sg f g controller]
  exact congrArg (State.modSgc · sg g) (State.modPort_congr s p h k port)

/-- Settles O22: by the acknowledge, the direction, and whether a close is taken. -/
theorem addressAcknowledgeIsRelayed : Obligations.AddressAcknowledgeIsRelayed := by
  refine ⟨?_, ?_, fun s sg low line => exec_addressResult_cause line low⟩
  · intro s p sg low d owner line closing relayed
    have acked := fun a => State.addressAcked_open (s := s.sampleLines low) owner line closing a
    refine ⟨fun inHand => ?_, fun inHand => ?_, ?_⟩
    · refine congrArg Host.Outcome.next ((acked .ack).trans (State.relay_eq ?_ ?_))
      · simp [Sgc.addressDone, inHand, closing]
      · simp [inHand, PortCtx.relayAddress, PortCtx.answer, PortCtx.stopHold, PortCtx.startIdle]
    · refine congrArg Host.Outcome.next ((acked .ack).trans (State.relay_eq ?_ ?_))
      · simp [Sgc.addressDone, inHand]
      · simp [inHand, PortCtx.relayAddress, PortCtx.answer, PortCtx.stopHold]
    · refine congrArg Host.Outcome.next ((acked .nack).trans (State.relay_eq ?_ ?_))
      · simp [Sgc.addressDone, closing]
      · simp [PortCtx.relayAddress, PortCtx.answer, PortCtx.stopHold, PortCtx.startIdle]
  · intro s sg low d line closing discarded
    have acked := fun a => State.addressAcked_closing (s := s.sampleLines low) line closing a
    refine ⟨fun inHand => ?_, fun inHand => ?_, ?_⟩
    · refine congrArg Host.Outcome.next ((acked .ack).trans (State.modSgc_congr _ sg _ _ ?_))
      simp [Sgc.addressDone, inHand, closing]
    · refine congrArg Host.Outcome.next ((acked .ack).trans (State.modSgc_congr _ sg _ _ ?_))
      simp [Sgc.addressDone, inHand]
    · refine congrArg Host.Outcome.next ((acked .nack).trans (State.modSgc_congr _ sg _ _ ?_))
      simp [Sgc.addressDone, closing]

/-! ### Read bytes (R57, R80) -/

theorem State.readByte_open {s : State} {sg : Seg} {o : Owner} (owner : (s.seg sg).owner = some o)
    (line : (s.sgc sg).line = .read) (closing : (s.sgc sg).closing = false) (b : Byte) :
    s.readByte sg b = (s.modSgc sg fun c => { c with line := .ackHold }).modPort o.port fun c =>
      { c.startIdle with sclHeld := false, out := some b } := by
  unfold State.readByte
  simp [owner, line, closing]

theorem State.readByte_closing {s : State} {sg : Seg} (line : (s.sgc sg).line = .read)
    (closing : (s.sgc sg).closing = true) (b : Byte) :
    s.readByte sg b = s.modSgc sg fun c => { c with line := .stopping, nackOut := true } := by
  unfold State.readByte
  simp [line, closing]

/-- Settles O23. -/
theorem segmentBytesAreRelayedUpstream : Obligations.SegmentBytesAreRelayedUpstream := by
  refine ⟨fun s p sg low owner line closing => ?_, fun s p sg b owner line => ⟨fun closing => ?_, fun closing => ?_⟩,
    fun s sg low line => ⟨fun closing a given => ?_, exec_byteResult_cause line low⟩⟩
  · have acked := fun a => State.byteAcked_open (s := s.sampleLines low) owner line closing a
    constructor
    · refine congrArg Host.Outcome.next ((acked .ack).trans (State.relay_eq ?_ ?_))
      · simp [Sgc.byteDone, closing]
      · simp [PortCtx.relayByte, PortCtx.countByte_eq, PortCtx.answer, PortCtx.startIdle]
    · refine congrArg Host.Outcome.next ((acked .nack).trans (State.relay_eq ?_ ?_))
      · simp [Sgc.byteDone, closing]
      · simp [PortCtx.relayByte, PortCtx.answer, PortCtx.startIdle]
  · exact congrArg Host.Outcome.next (State.readByte_open owner line closing b)
  · exact congrArg Host.Outcome.next (State.readByte_closing line closing b)
  · have done : (s.sampleLines low).modSgc sg Sgc.byteDone =
        (s.sampleLines low).modSgc sg fun c => { c with line := .stopping, txByte := none } :=
      State.modSgc_congr _ sg _ _ (by simp [Sgc.byteDone, closing])
    have acked := fun a => State.byteAcked_closing (s := s.sampleLines low) line closing a
    rcases given with rfl | rfl <;> exact congrArg Host.Outcome.next ((acked _).trans done)

/-! ### The results of a broadcast (R120, R122, R123) -/

theorem State.collect_waiting {s : State} {p : Port} {x : Seg} (owned : s.markOf p x = some .owned)
    (line : (s.sgc x).line ≠ .parked) : s.collect p = s :=
  State.collect_uncollected s p (.inr (.inr (.inr ⟨x, owned, line⟩)))

/-- Every OWNED member of the port's set has given its result, and no release is pending. -/
structure State.complete (s : State) (p : Port) : Prop where
  bset : (s.port p).bset ≠ none
  release : (s.port p).release = none
  results : ∀ x, s.markOf p x = some .owned → (s.sgc x).line = .parked

theorem State.complete.due {s : State} {p : Port} (h : s.complete p) :
    ((s.port p).bset.isSome && (s.port p).release.isNone && s.resultsIn p) = true := by
  obtain ⟨bset, release, results⟩ := h
  have all : s.resultsIn p = true := by
    rw [State.resultsIn, List.all_eq_true]
    intro x hx
    exact beq_iff_eq.mpr (results x (State.mem_ownedMembers.mp hx))
  simp [all, release, Option.isSome_iff_ne_none, bset]

theorem State.ownedMembers_isEmpty_of_mark {s : State} {p : Port} {x : Seg} (h : s.markOf p x = some .owned) :
    (s.ownedMembers p).isEmpty = false := by
  rw [List.isEmpty_eq_false_iff_exists_mem]
  exact ⟨x, State.mem_ownedMembers.mpr h⟩

theorem State.ownedMembers_isEmpty_of_none {s : State} {p : Port} (h : ∀ x, s.markOf p x ≠ some .owned) :
    (s.ownedMembers p).isEmpty = true := by
  rw [List.isEmpty_iff, List.eq_nil_iff_forall_not_mem]
  exact fun x hx => h x (State.mem_ownedMembers.mp hx)

/-- R120: the address of a broadcast, with a member left and with none. -/
theorem State.complete.address {s : State} {p : Port} (h : s.complete p) (phase : (s.port p).phase = .opening) :
    s.collect p = if (s.ownedMembers p).isEmpty then
        s.modPort p fun c => { c with phase := .awaitEnd, ack := some .nack, out := none, sclHeld := false
                                      hold := ⟨c.hold.limit, false⟩ }
      else s.modPort p fun c => { c with phase := .fwdWrite, ack := some .ack, out := none, sclHeld := false
                                         hold := ⟨c.hold.limit, false⟩, idle := ⟨c.idle.limit, true⟩ } := by
  unfold State.collect
  simp only [phase]
  exact if_pos h.due

/-- R122, R123: a byte of a broadcast. -/
theorem State.complete.byte {s : State} {p : Port} (h : s.complete p) (phase : (s.port p).phase = .fwdWrite)
    (clock : (s.port p).sclHeld = true) :
    s.collect p = if (s.ownedMembers p).isEmpty then
        s.modPort p fun c => { c with phase := .awaitEnd, sclHeld := false, ack := some .nack, out := none }
      else s.modPort p fun c => { c with sclHeld := false, ack := some .ack, out := none, idle := ⟨c.idle.limit, true⟩
                                         bytesMoved := oneMore c.bytesMoved } := by
  have counted : (fun x : PortCtx => (x.answer .ack).startIdle.countByte) = fun c =>
      { c with sclHeld := false, ack := some .ack, out := none, idle := ⟨c.idle.limit, true⟩
               bytesMoved := oneMore c.bytesMoved } := funext fun c => PortCtx.countByte_eq _
  unfold State.collect
  simp only [phase, clock, Bool.not_true, Bool.false_eq_true, if_false, counted]
  exact if_pos h.due

theorem setMark_dropped (set : List Member) (sg : Seg) : setMark set sg .dropped = droppedFrom set sg := by
  simp only [setMark, droppedFrom, beq_iff_eq]

theorem markIn_droppedFrom_owned (set : List Member) (sg x : Seg) :
    markIn (droppedFrom set sg) x = some .owned ↔ x ≠ sg ∧ markIn set x = some .owned := by
  rw [← setMark_dropped, markIn_setMark]
  by_cases e : x = sg <;> simp [e]

/-- R120, R122: a member whose targets gave NACK is dropped and sends its STOP. -/
theorem State.dropNacked_parked {s : State} {p : Port} {sg : Seg} {set : List Member} (hset : (s.port p).bset = some set)
    (line : (s.sgc sg).line = .parked) :
    s.dropNacked p sg = ((s.modSgc sg Sgc.stops).modPort p fun c => { c with bset := some (droppedFrom set sg) }).collect p := by
  have marked : s.markMember p sg .dropped = s.modPort p fun c => { c with bset := some (droppedFrom set sg) } :=
    State.modPort_congr s p _ _ (by simp [hset, setMark_dropped])
  have closed := State.closeSeg_parked (s := s.modPort p fun c => { c with bset := some (droppedFrom set sg) }) line
  unfold State.dropNacked
  rw [marked, closed]
  rfl

/-- A member that drops out sends its STOP. -/
def State.memberDropped (s : State) (p : Port) (sg : Seg) (set : List Member) : State :=
  (s.modSgc sg Sgc.stops).modPort p fun c => { c with bset := some (droppedFrom set sg) }

section
variable {s : State} {p : Port} {sg : Seg} {set : List Member} (owner : (s.seg sg).owner = some ⟨p, .broadcast⟩)
  (hset : (s.port p).bset = some set) (closing : (s.sgc sg).closing = false)
include owner closing

theorem State.addressAcked_member_ack (line : (s.sgc sg).line = .address)
    (inHand : (s.sgc sg).inHand = some ⟨.generalCall, .write⟩) :
    s.addressAcked sg .ack = (s.modSgc sg fun c =>
      { c with line := .parked, dataDir := some .write, inHand := none, formingRs := false }).collect p := by
  rw [State.addressAcked_open owner line closing, State.modSgc_congr s sg (Sgc.addressDone .ack)
    (fun c => { c with line := .parked, dataDir := some .write, inHand := none, formingRs := false })
    (by simp [Sgc.addressDone, inHand, closing])]
  rfl

theorem State.byteAcked_member_ack (line : (s.sgc sg).line = .write) :
    s.byteAcked sg .ack = (s.modSgc sg fun c => { c with line := .parked, txByte := none }).collect p := by
  rw [State.byteAcked_open owner line closing, State.modSgc_congr s sg Sgc.byteDone
    (fun c => { c with line := .parked, txByte := none }) (by simp [Sgc.byteDone, closing])]
  rfl

include hset

theorem State.addressAcked_member_nack (line : (s.sgc sg).line = .address) :
    s.addressAcked sg .nack =
      ((s.modSgc sg fun c => { c with inHand := none, formingRs := false }).memberDropped p sg set).collect p := by
  have dropped := State.dropNacked_parked (s := s.modSgc sg (Sgc.addressDone .nack)) (p := p) (sg := sg) hset
    (by simp [Sgc.addressDone, closing])
  rw [State.addressAcked_open owner line closing, State.takeAddressResult]
  refine dropped.trans ?_
  rw [State.memberDropped, State.modSgc_modSgc, State.modSgc_modSgc]
  refine congrArg (fun t : State => (t.modPort p _).collect p) (State.modSgc_congr _ sg _ _ ?_)
  simp [Sgc.addressDone, closing, Sgc.stops]

theorem State.byteAcked_member_nack (line : (s.sgc sg).line = .write) :
    s.byteAcked sg .nack =
      ((s.modSgc sg fun c => { c with line := .parked, txByte := none }).memberDropped p sg set).collect p := by
  have dropped := State.dropNacked_parked (s := s.modSgc sg Sgc.byteDone) (p := p) (sg := sg) hset
    (by simp [Sgc.byteDone, closing])
  rw [State.byteAcked_open owner line closing, State.takeByteResult]
  refine dropped.trans ?_
  rw [State.memberDropped, State.modSgc_modSgc, State.modSgc_modSgc]
  refine congrArg (fun t : State => (t.modPort p _).collect p) (State.modSgc_congr _ sg _ _ ?_)
  simp [Sgc.byteDone, closing, Sgc.stops]

end

/-- A state in which one member of a broadcast has just given its result: the port's set, nothing pending, the other
members as they were, and this one, if it is still OWNED, PARKED. -/
structure MemberResult (s t : State) (p : Port) (sg : Seg) (set : List Member) : Prop where
  bset : (t.port p).bset = some set
  release : (t.port p).release = none
  others : ∀ x, x ≠ sg → t.sgc x = s.sgc x
  own : markIn set sg = some .owned → (t.sgc sg).line = .parked

section
variable {s t : State} {p : Port} {sg : Seg} {set : List Member} (h : MemberResult s t p sg set)
include h

theorem MemberResult.waits (more : ∃ x, x ≠ sg ∧ markIn set x = some .owned ∧ (s.sgc x).line ≠ .parked) :
    t.collect p = t := by
  obtain ⟨x, e, hx, line⟩ := more
  exact State.collect_waiting (x := x) (by rw [State.markOf_of_set h.bset, hx]) (by rw [h.others x e]; exact line)

theorem MemberResult.complete (last : ∀ x, x ≠ sg → markIn set x = some .owned → (s.sgc x).line = .parked) :
    t.complete p where
  bset := by simp [h.bset]
  release := h.release
  results x hx := by
    rw [State.markOf_of_set h.bset] at hx
    by_cases e : x = sg
    · subst e; exact h.own hx
    · rw [h.others x e]; exact last x e hx

theorem MemberResult.some_left {x : Seg} (hx : markIn set x = some .owned) : ¬ (t.ownedMembers p).isEmpty = true := by
  rw [State.ownedMembers_isEmpty_of_mark (x := x) (by rw [State.markOf_of_set h.bset, hx])]
  exact Bool.false_ne_true

theorem MemberResult.none_left (none : ∀ x, markIn set x ≠ some .owned) : (t.ownedMembers p).isEmpty = true :=
  State.ownedMembers_isEmpty_of_none fun x => by rw [State.markOf_of_set h.bset]; exact none x

end

/-- An ACK leaves the set, a NACK drops the member from it. -/
theorem memberResult_ack {s : State} {p : Port} {sg : Seg} {set : List Member} (hset : (s.port p).bset = some set)
    (release : (s.port p).release = none) {f : Sgc → Sgc} (line : ∀ c, (f c).line = .parked) :
    MemberResult s (s.modSgc sg f) p sg set :=
  ⟨hset, release, fun _ e => State.sgc_modSgc_ne _ _ _ e, fun _ => by rw [State.sgc_modSgc_same]; exact line _⟩

theorem memberResult_nack {s : State} {p : Port} {sg : Seg} (set : List Member) (release : (s.port p).release = none)
    (f : Sgc → Sgc) : MemberResult s ((s.modSgc sg f).memberDropped p sg set) p sg (droppedFrom set sg) where
  bset := by rw [State.memberDropped, State.port_modPort_same]
  release := by rw [State.memberDropped, State.port_modPort_same]; exact release
  others x e := by rw [State.memberDropped, State.sgc_modPort, State.sgc_modSgc_ne _ _ _ e, State.sgc_modSgc_ne _ _ _ e]
  own h := absurd rfl ((markIn_droppedFrom_owned set sg sg).mp h).1

theorem State.port_memberDropped (s : State) (p : Port) (sg : Seg) (set : List Member) :
    (s.memberDropped p sg set).port p = { s.port p with bset := some (droppedFrom set sg) } :=
  State.port_modPort_same _ p _

/-- Settles O24: the member's own part, and then whether its result was the last. -/
theorem broadcastResultsAreCollected : Obligations.BroadcastResultsAreCollected := by
  intro s p sg low set owner hset mark release closing others last dropped
  have lastOf : last → ∀ x, x ≠ sg → markIn (droppedFrom set sg) x = some .owned → (s.sgc x).line = .parked :=
    fun all x e hx => all x e ((markIn_droppedFrom_owned set sg x).mp hx).2
  have moreOf : ¬ last → ∃ x, x ≠ sg ∧ markIn set x = some .owned ∧ (s.sgc x).line ≠ .parked := fun more => by
    simpa only [last, not_forall, exists_prop] using more
  have moreDropped : ¬ last → ∃ x, x ≠ sg ∧ markIn (droppedFrom set sg) x = some .owned ∧ (s.sgc x).line ≠ .parked :=
    fun more => by
      obtain ⟨x, e, hx, line⟩ := moreOf more
      exact ⟨x, e, (markIn_droppedFrom_owned set sg x).mpr ⟨e, hx⟩, line⟩
  have noneOf : ¬ others → ∀ x, markIn (droppedFrom set sg) x ≠ some .owned := fun none x hx =>
    none ⟨x, (markIn_droppedFrom_owned set sg x).mp hx⟩
  have lastOfNone : ¬ others → last := fun none x e hx => absurd ⟨x, e, hx⟩ none
  constructor
  · intro line inHand phase sent refused given
    have ack : MemberResult (s.sampleLines low) sent p sg set := memberResult_ack (s := s.sampleLines low) hset release fun _ => rfl
    have nack : MemberResult (s.sampleLines low) refused p sg (droppedFrom set sg) :=
      memberResult_nack (s := s.sampleLines low) set release _
    have acked : exec (.addressResult sg .ack low) s = .next (sent.collect p) :=
      congrArg Host.Outcome.next (State.addressAcked_member_ack (s := s.sampleLines low) owner closing line inHand)
    have nacked : exec (.addressResult sg .nack low) s = .next (refused.collect p) :=
      congrArg Host.Outcome.next (State.addressAcked_member_nack (s := s.sampleLines low) owner hset closing line)
    have phaseLeft : (refused.port p).phase = .opening := by
      have := congrArg PortCtx.phase (State.port_memberDropped ((s.sampleLines low).modSgc sg
        fun c => { c with inHand := none, formingRs := false }) p sg set)
      exact this.trans phase
    refine ⟨fun more => ⟨?_, ?_⟩, fun all => ?_, fun all ⟨x, hx⟩ => ?_, fun none => ?_⟩
    · rw [acked, ack.waits (moreOf more)]
    · rw [nacked, nack.waits (moreDropped more)]
    · rw [acked, (ack.complete all).address phase, if_neg (ack.some_left mark)]
    · rw [nacked, (nack.complete (lastOf all)).address phaseLeft,
        if_neg (nack.some_left ((markIn_droppedFrom_owned set sg x).mpr hx))]
    · rw [nacked, (nack.complete (lastOf (lastOfNone none))).address phaseLeft, if_pos (nack.none_left (noneOf none))]
  · intro line phase clock sent given
    have ack : MemberResult (s.sampleLines low) sent p sg set := memberResult_ack (s := s.sampleLines low) hset release fun _ => rfl
    have nack : MemberResult (s.sampleLines low) (dropped sent) p sg (droppedFrom set sg) :=
      memberResult_nack (s := s.sampleLines low) set release _
    have acked : exec (.byteResult sg .ack low) s = .next (sent.collect p) :=
      congrArg Host.Outcome.next (State.byteAcked_member_ack (s := s.sampleLines low) owner closing line)
    have nacked : exec (.byteResult sg .nack low) s = .next ((dropped sent).collect p) :=
      congrArg Host.Outcome.next (State.byteAcked_member_nack (s := s.sampleLines low) owner hset closing line)
    have portLeft := State.port_memberDropped ((s.sampleLines low).modSgc sg
      fun c => { c with line := .parked, txByte := none }) p sg set
    have phaseLeft : ((dropped sent).port p).phase = .fwdWrite := (congrArg PortCtx.phase portLeft).trans phase
    have clockLeft : ((dropped sent).port p).sclHeld = true := (congrArg PortCtx.sclHeld portLeft).trans clock
    refine ⟨fun more => ⟨?_, ?_⟩, fun all => ?_, fun all ⟨x, hx⟩ => ?_, fun none => ?_⟩
    · rw [acked, ack.waits (moreOf more)]
    · rw [nacked, nack.waits (moreDropped more)]
    · rw [acked, (ack.complete all).byte phase clock, if_neg (ack.some_left mark)]
    · rw [nacked, (nack.complete (lastOf all)).byte phaseLeft clockLeft,
        if_neg (nack.some_left ((markIn_droppedFrom_owned set sg x).mpr hx))]
    · rw [nacked, (nack.complete (lastOf (lastOfNone none))).byte phaseLeft clockLeft, if_pos (nack.none_left (noneOf none))]

end Sys2Proof.Machine
end

section
/-! The release of a segment that nobody waits for (R9, R44, R68, R82, R135): what is left of the segment, and what the
last release of a port does. -/

namespace Sys2Proof.Machine

/-! ### A broadcast formed (R113, R114) -/

/-- A port whose broadcast set has been formed and whose acquisition begins. -/
def PortCtx.forming (members : List Member) (left : Bool) (c : PortCtx) : PortCtx :=
  { c.startHold with phase := .claim, route := none, bset := some members, bytesMoved := 0, abortReported := false
                     refusalLeft := left, withdrawal := none, sclHeld := true }

theorem State.modPort_shutOutRecorded (s : State) (p : Port) (left : List (Seg × Byte)) (f : PortCtx → PortCtx)
    (mask : ∀ c, (f c).mask = c.mask) :
    (s.shutOutRecorded p left).modPort p f = (s.modPort p f).shutOutRecorded p left := by
  have records := State.foldl_writeRecord_modPort p f mask
    (left.map fun x => refusalRecord (.reservedElsewhere x.2) (some 0) (some x.1)) s
  rw [List.foldl_map, List.foldl_map] at records
  exact records

theorem State.formBroadcast_eq (s : State) (p : Port) :
    s.formBroadcast p = if s.broadcastMembers p = [] then
        (s.modPort p PortCtx.refused).shutOutRecorded p (s.broadcastExcluded p)
      else State.acquire p Seg.all ((s.modPort p
        (PortCtx.forming (s.broadcastMembers p) (!(s.broadcastExcluded p).isEmpty))).shutOutRecorded p
          (s.broadcastExcluded p)) := by
  rw [← State.modPort_shutOutRecorded _ _ _ PortCtx.refused fun _ => rfl,
    ← State.modPort_shutOutRecorded _ _ _ (PortCtx.forming _ _) fun _ => rfl]
  unfold State.formBroadcast
  cases s.broadcastMembers p <;> rfl

/-! ### Resolving an address byte forgets the phase -/

def PortCtx.inPhase (ph : Phase) (c : PortCtx) : PortCtx := { c with phase := ph }

/-- R47: whatever the steps decide, the phase is given anew. -/
theorem State.resolve_phase (s : State) (p : Port) (ph : Phase) (b : AddrByte) :
    (s.modPort p (PortCtx.inPhase ph)).resolve p b = s.resolve p b := by
  have same : (s.modPort p (PortCtx.inPhase ph)).resolution p b = s.resolution p b :=
    State.resolution_congr (s := s) (t := s.modPort p (PortCtx.inPhase ph))
      (by rw [State.port_modPort_same, PortCtx.inPhase]) rfl rfl rfl (fun _ => rfl) b
  have fused : ∀ f : PortCtx → PortCtx, (∀ c : PortCtx, f (c.resolving.inPhase ph) = f c.resolving) →
      ((s.modPort p (PortCtx.inPhase ph)).modPort p PortCtx.resolving).modPort p f =
        (s.modPort p PortCtx.resolving).modPort p f := fun f hf => by
    simp only [State.modPort_modPort]
    exact State.modPort_congr s p _ _ (hf _)
  rw [State.resolve_eq, State.resolve_eq, same]
  cases s.resolution p b with
  | silentNack => exact fused _ fun _ => rfl
  | broadcast =>
    rw [State.formBroadcast_eq, State.formBroadcast_eq]
    have members : ((s.modPort p (PortCtx.inPhase ph)).modPort p PortCtx.resolving).broadcastMembers p =
        (s.modPort p PortCtx.resolving).broadcastMembers p := rfl
    have excluded : ((s.modPort p (PortCtx.inPhase ph)).modPort p PortCtx.resolving).broadcastExcluded p =
        (s.modPort p PortCtx.resolving).broadcastExcluded p := rfl
    rw [members, excluded, fused PortCtx.refused fun _ => rfl, fused (PortCtx.forming _ _) fun _ => rfl]
  | management dir => exact fused _ fun _ => by cases dir <;> rfl
  | refused why sg => exact congrArg (State.writeRecord · p _) (fused _ fun _ => rfl)
  | route r =>
    simp only [State.claimSingle_eq]
    have arrival : ((s.modPort p (PortCtx.inPhase ph)).modPort p PortCtx.resolving).arrival p r.seg
        (.device r.downstream) = (s.modPort p PortCtx.resolving).arrival p r.seg (.device r.downstream) :=
      State.arrival_congr rfl rfl rfl p _
    rw [arrival, fused _ fun _ => rfl]

/-- Resolving in a state after a quarantine entry forgets the phase, too. -/
theorem State.resolve_modPort_congr {s : State} {p : Port} {f g : PortCtx → PortCtx}
    (h : (f (s.port p)).inPhase .idle = (g (s.port p)).inPhase .idle) (b : AddrByte) :
    (s.modPort p f).resolve p b = (s.modPort p g).resolve p b := by
  rw [← State.resolve_phase (s.modPort p f) p .idle, ← State.resolve_phase (s.modPort p g) p .idle,
    State.modPort_modPort, State.modPort_modPort]
  exact congrArg (State.resolve · p b) (State.modPort_congr s p (PortCtx.inPhase .idle ∘ f) (PortCtx.inPhase .idle ∘ g) h)

/-! ### The last release (R44, R68, R135) -/

/-- A quarantine entry that is held comes with the release. -/
def State.entered (s : State) (p : Port) (held : Bool) : State := if held then s.quarantineEntered p else s

theorem State.modPort_entered (s : State) (p : Port) (held : Bool) (f : PortCtx → PortCtx) (mask : ∀ c, (f c).mask = c.mask)
    (flags : ∀ c, f { c with quarantined := true, quarantineHeld := false } =
      { f c with quarantined := true, quarantineHeld := false }) :
    (s.entered p held).modPort p f = (s.modPort p f).entered p held := by
  cases held with
  | true => exact State.modPort_quarantineEntered s p f mask flags
  | false => rfl

theorem State.finishRelease_ending (s : State) (p : Port) (e : Ending) :
    s.finishRelease p (.ending e) = (s.modPort p (PortCtx.acted e)).entered p (s.port p).quarantineHeld := by
  rw [State.finishRelease_eq, State.actOnPending_ending]
  refine (State.modPort_entered (s.modPort p (PortCtx.finished (.ending e))) p (s.port p).quarantineHeld
    (fun c => { c with phase := Ending.phaseAfter e }) (fun _ => rfl) fun _ => rfl).trans ?_
  rw [State.modPort_modPort]
  rfl

theorem State.finishRelease_address (s : State) (p : Port) (b : AddrByte) (r : Option Ending) :
    s.finishRelease p (.address b r) =
      ((s.modPort p (PortCtx.finished (.address b r))).entered p (s.port p).quarantineHeld).resolve p b := by
  rw [State.finishRelease_eq]
  rfl

theorem State.resolve_entered_congr {s : State} {p : Port} {f g : PortCtx → PortCtx} (held : Bool)
    (h : (f (s.port p)).inPhase .idle = (g (s.port p)).inPhase .idle) (b : AddrByte) :
    ((s.modPort p f).entered p held).resolve p b = ((s.modPort p g).entered p held).resolve p b := by
  have idle := fun k : PortCtx → PortCtx => (State.resolve_phase ((s.modPort p k).entered p held) p .idle b).symm
  have inside := fun k : PortCtx → PortCtx =>
    State.modPort_entered (s.modPort p k) p held (PortCtx.inPhase .idle) (fun _ => rfl) fun _ => rfl
  rw [idle f, idle g, inside, inside, State.modPort_modPort, State.modPort_modPort]
  exact congrArg (fun t : State => (t.entered p held).resolve p b)
    (State.modPort_congr s p (PortCtx.inPhase .idle ∘ f) (PortCtx.inPhase .idle ∘ g) h)

/-! ### What a port owns once a segment is released -/

theorem State.owns_disowned (s : State) (p : Port) (sg x : Seg) :
    (s.disowned sg).owns p x = if x = sg then false else s.owns p x := by
  by_cases e : x = sg
  · subst e; simp [State.disowned, State.owns]
  · simp [State.disowned, State.owns, e]

theorem State.ownedBy_disowned_alone {s : State} {p : Port} {sg : Seg} (h : s.ownedBy p = [sg]) :
    (s.disowned sg).ownedBy p = [] := by
  refine List.eq_nil_iff_forall_not_mem.mpr fun x hx => ?_
  rw [State.mem_ownedBy, State.owns_disowned] at hx
  split at hx
  · contradiction
  · rename_i other
    have := State.mem_ownedBy.mpr hx
    rw [h, List.mem_singleton] at this
    exact other this

/-- R44: the release of the last segment of a port. -/
theorem State.portReleased_last {s : State} {p : Port} {sg : Seg} {pend : Pending} (release : (s.port p).release = some pend)
    (alone : s.ownedBy p = [sg]) : (s.disowned sg).portReleased p = (s.disowned sg).finishRelease p pend := by
  have releaseLeft : ((s.disowned sg).port p).release = some pend := release
  simp only [State.portReleased, releaseLeft, State.ownedBy_disowned_alone alone, List.isEmpty_nil, if_true]

/-- R44: a release that is not the last, or that comes with nothing pending. -/
theorem State.portReleased_more {s : State} {p : Port} {sg : Seg}
    (h : (s.port p).release = none ∨ ∃ x, x ≠ sg ∧ s.owns p x = true) : (s.disowned sg).portReleased p = s.disowned sg := by
  unfold State.portReleased
  split
  · rename_i pend release
    rcases h with h | ⟨x, e, owns⟩
    · rw [State.disowned, State.port_modSeg, h] at release
      contradiction
    · have left : x ∈ (s.disowned sg).ownedBy p := State.mem_ownedBy.mpr (by rw [State.owns_disowned, if_neg e, owns])
      exact if_neg fun empty => List.not_mem_nil (List.isEmpty_iff.mp empty ▸ left)
  · rfl

/-- R9, R82: the release of a segment with an empty list. -/
theorem State.releaseSeg_unwaited {s : State} {sg : Seg} {o : Owner} (owner : (s.seg sg).owner = some o)
    (list : (s.seg sg).waitList = []) (cause : Option AbortCause) :
    s.releaseSeg sg cause =
      ((((s.modSgc sg Sgc.released).takeCause o.port sg cause).disowned sg).portReleased o.port) := by
  have seg : ∀ t : State, t.segs = s.segs → (t.disowned sg).grantHead sg = t.disowned sg := fun t ht => by
    have empty : ((t.disowned sg).seg sg).waitList = [] := by
      rw [State.disowned, State.seg_modSeg_same, State.seg, ht]
      exact list
    rw [State.grantHead, empty]
  have kept : ((s.modSgc sg Sgc.released).takeCause o.port sg cause).segs = s.segs := by
    unfold State.takeCause
    split
    · rfl
    · simp only
      split <;> rfl
  unfold State.releaseSeg
  rw [owner]
  simp only
  rw [show ∀ t : State, (t.modSeg sg fun r => { r with owner := none }) = t.disowned sg from fun _ => rfl, seg _ kept]
  split <;> rfl

/-! ### STOP_DONE (R44, R82) -/

theorem exec_stopDone {s : State} {sg : Seg} (line : (s.sgc sg).line = .stopping) (low : List Seg) :
    exec (.stopDone sg low) s =
      .next (((s.sampleLines low).modSgc sg fun c => { c with line := .idle }).releaseSeg sg none) :=
  congrArg Host.Outcome.next (if_pos (beq_iff_eq.mpr line))

/-- Settles O32: the segment is freed, and the last release acts on what is pending. -/
theorem releaseEndsTheTransaction : Obligations.ReleaseEndsTheTransaction := by
  intro s p k sg low owner line list freed entered last
  let stopped := (s.sampleLines low).modSgc sg fun c => c.left .idle c.busBusy
  have released : exec (.stopDone sg low) s = .next ((stopped.disowned sg).portReleased p) := by
    rw [exec_stopDone line, State.releaseSeg_unwaited (s := (s.sampleLines low).modSgc sg _) owner list, State.modSgc_modSgc]
    rfl
  have freedOf : ∀ f, (stopped.disowned sg).modPort p f = freed f := fun _ => rfl
  refine ⟨fun alone => ?_, fun more => ?_⟩
  · have done : ∀ pend, (s.port p).release = some pend →
        exec (.stopDone sg low) s = .next ((stopped.disowned sg).finishRelease p pend) := fun pend release => by
      rw [released, State.portReleased_last (s := stopped) release alone]
    have ends : ∀ (e : Ending) (f : PortCtx → PortCtx), (s.port p).release = some (.ending e) →
        (s.port p).acted e = f (s.port p) → last f := fun e f release same => by
      refine (done _ release).trans (congrArg Host.Outcome.next ?_)
      rw [State.finishRelease_ending]
      exact congrArg entered ((State.modPort_congr (stopped.disowned sg) p _ f same).trans (freedOf f))
    refine ⟨fun release => ends _ _ release ?_, fun release => ends _ _ release rfl, fun a release => ends _ _ release rfl,
      fun a release => ends _ _ release rfl, fun b r release => ?_⟩
    · cases reported : (s.port p).abortReported <;>
        simp [PortCtx.acted, PortCtx.finished, PortCtx.ended, PortCtx.endedClean, endedByStop, Ending.phaseAfter, reported]
    · refine (done _ release).trans (congrArg Host.Outcome.next ?_)
      rw [State.finishRelease_address]
      refine State.resolve_entered_congr (s := stopped.disowned sg) (s.port p).quarantineHeld ?_ b
      show ((s.port p).finished (.address b r)).inPhase .idle =
        ((if r = some .stop then PortCtx.endedClean .awaitEnd else PortCtx.ended .awaitEnd) (s.port p)).inPhase .idle
      rcases r with _ | e
      · rfl
      · cases e with
        | stop =>
          cases reported : (s.port p).abortReported <;>
            simp [PortCtx.inPhase, PortCtx.finished, PortCtx.ended, PortCtx.endedClean, endedByStop, reported]
        | hold => rfl
        | stopAfterAbort a => rfl
        | abort a => rfl
  · rw [released, State.portReleased_more (s := stopped) more]
    exact congrArg Host.Outcome.next (State.modPort_self _ p id rfl).symm

end Sys2Proof.Machine
end

section
/-! A cause that the segment reports: arbitration loss, a condition seen, a stuck line (R52, R83 to R89, R120, R126 to
R130). It aborts a single transaction, drops one member of a broadcast, or ends a close as its release. -/

namespace Sys2Proof.Machine

/-! ### Results that are not collected -/

theorem State.collect_pending {s : State} {p : Port} (h : (s.port p).release ≠ none) : s.collect p = s := by
  refine if_neg fun due => h ?_
  simp only [Bool.and_eq_true, Option.isNone_iff_eq_none] at due
  exact due.1.2

theorem State.collect_noSet {s : State} {p : Port} (h : (s.port p).bset = none) : s.collect p = s :=
  State.collect_uncollected s p (.inl h)

theorem State.collect_silent {s : State} {p : Port}
    (h : (s.port p).phase = .awaitEnd ∨ (s.port p).phase = .fwdWrite ∧ (s.port p).sclHeld = false) : s.collect p = s := by
  unfold State.collect
  simp only
  split
  · rcases h with phase | ⟨phase, clock⟩
    · simp only [phase]
    · simp [phase, clock]
  · rfl

theorem State.port_entered (s : State) (p : Port) (held : Bool) :
    ((s.entered p held).port p).bset = (s.port p).bset := by
  cases held with
  | true => rw [State.entered, if_pos rfl, State.port_quarantineEntered]
  | false => rfl

theorem State.parkedOwned_entered {s : State} (h : s.parkedOwned) (p : Port) (held : Bool) :
    (s.entered p held).parkedOwned := by
  cases held with
  | true =>
    intro x
    simp only [State.entered, if_true, State.seg, State.sgc, State.segs_quarantineEntered, State.sgcs_quarantineEntered]
    exact h x
  | false => exact h

/-! ### A single transaction -/

/-- R126, Table 7-2: what an abort that takes effect at once leaves of the port. -/
theorem PortCtx.acted_aborted {c : PortCtx} (clock : c.phase = .fwdWrite → c.sclHeld = true) :
    (c.aborted .cause).acted (.abort .cause) = c.cutOff := by
  obtain ⟨phase, _⟩ := c
  cases phase
  case fwdWrite =>
    have held := clock rfl
    simp only at held
    subst held
    rfl
  all_goals rfl

/-- The kind and the detail that a cause gives its record (Tables 7-1, 7-3). -/
theorem abortRecord_eq (cause : AbortCause) : ∃ kind d, ∀ visible sg moved,
    abortRecord cause visible sg moved = ⟨kind, visible, sg, some moved, none, d⟩ := by
  cases cause <;> exact ⟨_, _, fun _ _ _ => rfl⟩

/-- R126, R127, R129: a cause in a single transaction with no close taken. -/
theorem State.endWithCause_single {s : State} {p : Port} {r : Route} (under : s.underWay p r)
    (list : (s.seg r.seg).waitList = []) (clock : (s.port p).phase = .fwdWrite → (s.port p).sclHeld = true)
    {cause : AbortCause} {kind : RecordKind} {d : Detail}
    (record : ∀ visible sg moved, abortRecord cause visible sg moved = ⟨kind, visible, sg, some moved, none, d⟩)
    (f : Sgc → Sgc) :
    s.endWithCause r.seg cause f = s.singleAborted p r kind d fun c => (f c).released := by
  obtain ⟨⟨owner, alone, noSet⟩, route, release, held, closing⟩ := under
  have body : (s.port p).abortRecord cause = ⟨kind, some r.visible, some r.seg, some (s.port p).bytesMoved, none, d⟩ := by
    simp [PortCtx.abortRecord, record, PortCtx.visible, noSet, route]
  let aborted := (s.modPort p (PortCtx.aborted .cause)).writeRecord p ((s.port p).abortRecord cause)
  have port : (aborted.port p) = (s.port p).aborted .cause := State.port_modPort_same s p _
  have heldNow : ((s.port p).aborted .cause).quarantineHeld = false := by
    rw [← held]
    simp only [PortCtx.aborted, PortCtx.abortFace, PortCtx.answer, PortCtx.stopTimers, PortCtx.stopHold, PortCtx.stopIdle]
    split <;> (try split) <;> rfl
  have ends : ((((aborted.modSgc r.seg f).modSgc r.seg Sgc.released).disowned r.seg).portReleased p) =
      s.singleAborted p r kind d fun c => (f c).released := by
    rw [State.portReleased_last (s := (aborted.modSgc r.seg f).modSgc r.seg Sgc.released)
      (pend := .ending (.abort .cause)) (congrArg PortCtx.release port) alone, State.finishRelease_ending]
    have freed : ((((aborted.modSgc r.seg f).modSgc r.seg Sgc.released).disowned r.seg).port p).quarantineHeld = false :=
      (congrArg PortCtx.quarantineHeld port).trans heldNow
    rw [freed, State.modSgc_modSgc]
    have face : aborted.modPort p (PortCtx.acted (.abort .cause)) =
        (s.modPort p PortCtx.cutOff).writeRecord p ⟨kind, some r.visible, some r.seg, some (s.port p).bytesMoved, none, d⟩ := by
      rw [State.modPort_writeRecord _ _ _ _ _ rfl, State.modPort_modPort, body]
      exact congrArg (State.writeRecord · p _) (State.modPort_congr s p _ _ (PortCtx.acted_aborted clock))
    exact congrArg (fun t : State => (t.disowned r.seg).modSgc r.seg fun c => (f c).released) face
  unfold State.endWithCause
  rw [owner]
  simp only [closing, Bool.false_eq_true, if_false]
  have released := State.releaseSeg_unwaited (s := aborted.modSgc r.seg f) (sg := r.seg) owner list none
  refine (congrArg (State.collect · p) (released.trans ends)).trans (State.collect_noSet ?_)
  rw [State.singleAborted, State.port_modSgc, State.disowned, State.port_modSeg, State.port_writeRecord,
    State.port_modPort_same]
  rfl

/-! ### One member of a broadcast -/

/-- R120, R122: a cause on one segment of a broadcast drops that member, and what is left may be collected. -/
theorem State.endWithCause_member {s : State} {p : Port} {sg : Seg} {set : List Member}
    (owner : (s.seg sg).owner = some ⟨p, .broadcast⟩) (hset : (s.port p).bset = some set)
    (release : (s.port p).release = none) (closing : (s.sgc sg).closing = false) (list : (s.seg sg).waitList = [])
    {cause : AbortCause} {kind : RecordKind} {d : Detail}
    (record : ∀ visible sg moved, abortRecord cause visible sg moved = ⟨kind, visible, sg, some moved, none, d⟩)
    (f : Sgc → Sgc) :
    s.endWithCause sg cause f = (s.memberAborted p sg set kind d fun c => (f c).released).collect p := by
  have face : s.abortMember p sg cause =
      (s.modPort p fun c => { c with bset := some (droppedFrom set sg), abortReported := true }).writeRecord p
        ⟨kind, some 0, some sg, some (s.port p).bytesMoved, none, d⟩ := by
    have marked : (s.modPort p fun c =>
        { c with bset := c.bset.map fun set => setMark set sg .dropped, abortReported := true }) =
          s.modPort p fun c => { c with bset := some (droppedFrom set sg), abortReported := true } :=
      State.modPort_congr s p _ _ (by simp [hset, setMark_dropped])
    exact congrArg₂ (fun t r => State.writeRecord t p r) marked (record _ _ _)
  unfold State.endWithCause
  rw [owner]
  simp only [closing, Bool.false_eq_true, if_false, State.handAbort, face]
  let aborted := (s.modPort p fun c => { c with bset := some (droppedFrom set sg), abortReported := true }).writeRecord p
    ⟨kind, some 0, some sg, some (s.port p).bytesMoved, none, d⟩
  refine congrArg (State.collect · p) ((State.releaseSeg_unwaited (s := aborted.modSgc sg f) owner list none).trans ?_)
  refine (State.portReleased_more (s := (aborted.modSgc sg f).modSgc sg Sgc.released)
    (.inl ((congrArg PortCtx.release (State.port_modPort_same s p _)).trans release))).trans ?_
  rw [State.modSgc_modSgc]
  rfl

/-- The member a cause drops has given no result; the others have, or have not. -/
theorem State.memberAborted_result {s : State} {p : Port} {sg : Seg} (set : List Member)
    (release : (s.port p).release = none) (kind : RecordKind) (d : Detail) (f : Sgc → Sgc) :
    MemberResult s (s.memberAborted p sg set kind d f) p sg (droppedFrom set sg) where
  bset := congrArg PortCtx.bset (State.port_modPort_same s p _)
  release := (congrArg PortCtx.release (State.port_modPort_same s p _)).trans release
  others x e := by rw [State.memberAborted, State.sgc_modSgc_ne _ _ _ e]; rfl
  own h := absurd rfl ((markIn_droppedFrom_owned set sg sg).mp h).1

theorem State.endWithCause_atWork {s : State} {p : Port} {sg : Seg} {set : List Member} (work : s.memberAtWork p sg set)
    (list : (s.seg sg).waitList = []) {cause : AbortCause} {kind : RecordKind} {d : Detail}
    (record : ∀ visible sg moved, abortRecord cause visible sg moved = ⟨kind, visible, sg, some moved, none, d⟩)
    (f : Sgc → Sgc) :
    s.endWithCause sg cause f = s.memberAborted p sg set kind d fun c => (f c).released := by
  obtain ⟨owner, hset, mark, release, closing, x, e, hx, line⟩ := work
  rw [State.endWithCause_member owner hset release closing list record]
  exact (State.memberAborted_result set release kind d _).waits
    ⟨x, e, (markIn_droppedFrom_owned set sg x).mpr ⟨e, hx⟩, line⟩

/-! ### A close that a cause ends (R130, Table 7-4) -/

/-- Whether the cause that ends a close adds its record. -/
def PortCtx.addsRecord (c : PortCtx) : Bool := causeRecorded (c.abortReported || c.refusalLeft) c.release

theorem State.causeTaken_modPort {s : State} {p : Port} {sg : Seg} {added : Bool} {r : RecordBody} {f : Sgc → Sgc}
    {g h : PortCtx → PortCtx} (mask : ∀ c, (h c).mask = c.mask)
    (face : h { s.port p with abortReported := true } = { g (s.port p) with abortReported := true }) :
    (s.causeTaken p sg added r f id).modPort p h = s.causeTaken p sg added r f g := by
  have port : (s.modPort p fun c => { c with abortReported := true }).modPort p h =
      s.modPort p fun c => { g c with abortReported := true } := by
    rw [State.modPort_modPort]
    exact State.modPort_congr s p _ _ face
  have recorded : (if added then (s.modPort p fun c => { c with abortReported := true }).writeRecord p r
        else s.modPort p fun c => { c with abortReported := true }).modPort p h =
      if added then (s.modPort p fun c => { g c with abortReported := true }).writeRecord p r
        else s.modPort p fun c => { g c with abortReported := true } := by
    cases added with
    | true => exact (State.modPort_writeRecord _ _ _ _ _ (mask _)).trans (congrArg (State.writeRecord · p r) port)
    | false => exact port
  exact congrArg (fun t : State => (t.disowned sg).modSgc sg f) recorded

/-- The release of a close with its cause, before the port acts on what is pending. -/
theorem State.releaseSeg_cause {s : State} {p : Port} {k : OwnerKind} {sg : Seg} (owner : (s.seg sg).owner = some ⟨p, k⟩)
    (list : (s.seg sg).waitList = []) {cause : AbortCause} {kind : RecordKind} {d : Detail}
    (record : ∀ visible sg moved, abortRecord cause visible sg moved = ⟨kind, visible, sg, some moved, none, d⟩)
    (f : Sgc → Sgc) :
    (s.modSgc sg f).releaseSeg sg (some cause) =
      (s.causeTaken p sg (s.port p).addsRecord (s.causeRecord p sg kind d) (fun c => (f c).released) id).portReleased p := by
  have body : abortRecord cause (s.port p).visible (some sg) (s.port p).bytesMoved = s.causeRecord p sg kind d := by
    rw [record, State.causeRecord, PortCtx.visible]
    cases (s.port p).bset <;> rfl
  have taken : (s.modSgc sg f |>.modSgc sg Sgc.released).takeCause p sg (some cause) =
      ((if (s.port p).addsRecord then (s.modPort p fun c => { c with abortReported := true }).writeRecord p
          (s.causeRecord p sg kind d) else s.modPort p fun c => { c with abortReported := true })).modSgc sg
        fun c => (f c).released := by
    rw [State.modSgc_modSgc]
    show (if (s.port p).addsRecord then (s.modSgc sg fun c => (f c).released).writeRecord p
        (abortRecord cause (s.port p).visible (some sg) (s.port p).bytesMoved)
      else s.modSgc sg fun c => (f c).released).modPort p (fun c => { c with abortReported := true }) = _
    rw [body]
    cases (s.port p).addsRecord with
    | true => exact State.modPort_writeRecord _ _ _ _ _ rfl
    | false => rfl
  refine (State.releaseSeg_unwaited (s := s.modSgc sg f) owner list (some cause)).trans ?_
  rw [taken]
  rfl

/-- What a close leaves once a cause has ended it, the port and the records aside. -/
theorem State.owner_causeTaken (s : State) (p : Port) (sg : Seg) (added : Bool) (r : RecordBody) (f : Sgc → Sgc)
    (g : PortCtx → PortCtx) (x : Seg) :
    ((s.causeTaken p sg added r f g).seg x).owner = if x = sg then none else (s.seg x).owner := by
  unfold State.causeTaken
  cases added <;> by_cases e : x = sg <;> simp [State.disowned, e]

theorem State.sgc_causeTaken (s : State) (p : Port) (sg : Seg) (added : Bool) (r : RecordBody) (f : Sgc → Sgc)
    (g : PortCtx → PortCtx) (x : Seg) :
    (s.causeTaken p sg added r f g).sgc x = if x = sg then f (s.sgc x) else s.sgc x := by
  unfold State.causeTaken
  cases added <;> by_cases e : x = sg <;> simp [State.disowned, e]

theorem State.port_causeTaken (s : State) (p : Port) (sg : Seg) (added : Bool) (r : RecordBody) (f : Sgc → Sgc)
    (g : PortCtx → PortCtx) :
    (s.causeTaken p sg added r f g).port p = { g (s.port p) with abortReported := true } := by
  unfold State.causeTaken
  cases added <;> simp [State.disowned]

/-- The last release of a close that a cause has ended, by what is pending. -/
theorem State.causeTaken_last {s : State} {p : Port} {sg : Seg} {added : Bool} {r : RecordBody} {f : Sgc → Sgc}
    {pend : Pending} (release : (s.port p).release = some pend) (alone : s.ownedBy p = [sg]) :
    (s.causeTaken p sg added r f id).portReleased p = (s.causeTaken p sg added r f id).finishRelease p pend :=
  State.portReleased_last (s := ((if added then (s.modPort p fun c => { c with abortReported := true }).writeRecord p r
    else s.modPort p fun c => { c with abortReported := true }).modSgc sg f))
    (by cases added <;> simp [release]) (by cases added <;> exact alone)

theorem State.causeTaken_more {s : State} {p : Port} {sg : Seg} {added : Bool} {r : RecordBody} {f : Sgc → Sgc}
    (h : (s.port p).release = none ∨ ∃ x, x ≠ sg ∧ s.owns p x = true) :
    (s.causeTaken p sg added r f id).portReleased p = s.causeTaken p sg added r f id :=
  State.portReleased_more (s := ((if added then (s.modPort p fun c => { c with abortReported := true }).writeRecord p r
    else s.modPort p fun c => { c with abortReported := true }).modSgc sg f))
    (by cases added <;> simpa [State.owns] using h)

section
variable {s : State} {p : Port} {sg : Seg} {added : Bool} {r : RecordBody} {f : Sgc → Sgc}

/-- Table 7-4: END or ABORT is acted on, the error count kept. -/
theorem State.closeEnded_ending {e : Ending} (release : (s.port p).release = some (.ending e)) (alone : s.ownedBy p = [sg]) :
    ((s.causeTaken p sg added r f id).portReleased p).collect p =
      (s.causeTaken p sg added r f (PortCtx.ended (Ending.phaseAfter e))).entered p (s.port p).quarantineHeld := by
  have face : PortCtx.acted e { s.port p with abortReported := true } =
      { (s.port p).ended (Ending.phaseAfter e) with abortReported := true } := by
    cases e <;> rfl
  have held : ((s.causeTaken p sg added r f id).port p).quarantineHeld = (s.port p).quarantineHeld := by
    rw [State.port_causeTaken]
    rfl
  rw [State.causeTaken_last release alone, State.finishRelease_ending,
    State.causeTaken_modPort (h := PortCtx.acted e) (g := PortCtx.ended (Ending.phaseAfter e)) (fun _ => rfl) face, held]
  refine State.collect_noSet ?_
  rw [State.port_entered, State.port_causeTaken]
  rfl

/-- Table 7-4: the held address is resolved, the error count kept. -/
theorem State.closeEnded_address {b : AddrByte} {e : Option Ending} (release : (s.port p).release = some (.address b e))
    (alone : s.ownedBy p = [sg]) (parked : s.parkedOwned) (line : (f (s.sgc sg)).line ≠ .parked) :
    ((s.causeTaken p sg added r f id).portReleased p).collect p =
      ((s.causeTaken p sg added r f (PortCtx.ended .awaitEnd)).entered p (s.port p).quarantineHeld).resolve p b := by
  have face : (PortCtx.inPhase .awaitEnd) (PortCtx.finished (.address b e) { s.port p with abortReported := true }) =
      { (s.port p).ended .awaitEnd with abortReported := true } := by
    simp [PortCtx.inPhase, PortCtx.finished, PortCtx.ended]
  have held : ((s.causeTaken p sg added r f id).port p).quarantineHeld = (s.port p).quarantineHeld := by
    rw [State.port_causeTaken]
    rfl
  have parkedLeft : (s.causeTaken p sg added r f (PortCtx.ended .awaitEnd)).parkedOwned := fun x => by
    rw [State.owner_causeTaken, State.sgc_causeTaken]
    by_cases other : x = sg
    · subst other; simpa using line
    · simpa [other] using parked x
  have phased : ((s.causeTaken p sg added r f id).modPort p (PortCtx.finished (.address b e))).modPort p
      (PortCtx.inPhase .awaitEnd) = s.causeTaken p sg added r f (PortCtx.ended .awaitEnd) := by
    rw [State.modPort_modPort]
    exact State.causeTaken_modPort (fun _ => rfl) face
  rw [State.causeTaken_last release alone, State.finishRelease_address, held, ← State.resolve_phase _ p .awaitEnd,
    State.modPort_entered _ _ _ (PortCtx.inPhase .awaitEnd) (fun _ => rfl) (fun _ => rfl), phased]
  refine State.collect_resolve _ p b (State.parkedOwned_entered parkedLeft p _) ?_
  rw [State.port_entered, State.port_causeTaken]
  rfl

end

/-- R130, Table 7-4: a close of the segment that a cause ends. -/
theorem State.endWithCause_closing {s : State} {p : Port} {k : OwnerKind} {sg : Seg}
    (owner : (s.seg sg).owner = some ⟨p, k⟩) (closing : (s.sgc sg).closing = true) (list : (s.seg sg).waitList = [])
    {cause : AbortCause} {kind : RecordKind} {d : Detail}
    (record : ∀ visible sg moved, abortRecord cause visible sg moved = ⟨kind, visible, sg, some moved, none, d⟩)
    {f : Sgc → Sgc} (line : (f (s.sgc sg)).line ≠ .parked) :
    s.closeCutShort p sg (s.causeRecord p sg kind d) (fun c => (f c).released) (.next (s.endWithCause sg cause f)) := by
  have ended : s.endWithCause sg cause f = ((s.causeTaken p sg (s.port p).addsRecord (s.causeRecord p sg kind d)
      (fun c => (f c).released) id).portReleased p).collect p := by
    unfold State.endWithCause
    rw [owner]
    simp only [closing, if_true]
    exact congrArg (State.collect · p) (State.releaseSeg_cause owner list record f)
  have more : ∀ pend, (s.port p).release = some pend → (∃ x, x ≠ sg ∧ s.owns p x = true) →
      s.endWithCause sg cause f = s.causeTaken p sg (s.port p).addsRecord (s.causeRecord p sg kind d)
        (fun c => (f c).released) id := fun pend release others => by
    rw [ended, State.causeTaken_more (.inr others), State.collect_pending]
    rw [State.port_causeTaken]
    exact fun none => by simp [release] at none
  have clean : (!(s.port p).abortReported && !(s.port p).refusalLeft) = !((s.port p).abortReported || (s.port p).refusalLeft) :=
    (Bool.not_or _ _).symm
  have adds : ∀ {pend}, (s.port p).release = some pend →
      (s.port p).addsRecord = causeRecorded ((s.port p).abortReported || (s.port p).refusalLeft) (some pend) :=
    fun release => by rw [PortCtx.addsRecord, release]
  have endings : ∀ e added, causeRecorded ((s.port p).abortReported || (s.port p).refusalLeft) (some (.ending e)) = added →
      (s.port p).release = some (.ending e) →
      (s.ownedBy p = [sg] → Host.Outcome.next (φ := Fault) (ρ := Refusal) (s.endWithCause sg cause f) = .next
        ((s.causeTaken p sg added (s.causeRecord p sg kind d) (fun c => (f c).released)
          (PortCtx.ended (Ending.phaseAfter e))).entered p (s.port p).quarantineHeld)) ∧
      ((∃ x, x ≠ sg ∧ s.owns p x = true) → Host.Outcome.next (φ := Fault) (ρ := Refusal) (s.endWithCause sg cause f) = .next
        (s.causeTaken p sg added (s.causeRecord p sg kind d) (fun c => (f c).released) id)) := by
    rintro e added rfl release
    rw [← adds release]
    exact ⟨fun alone => by rw [ended, State.closeEnded_ending release alone], fun others => by rw [more _ release others]⟩
  have addresses : s.parkedOwned → ∀ b e added,
      causeRecorded ((s.port p).abortReported || (s.port p).refusalLeft) (some (.address b e)) = added →
      (s.port p).release = some (.address b e) →
      (s.ownedBy p = [sg] → Host.Outcome.next (φ := Fault) (ρ := Refusal) (s.endWithCause sg cause f) = .next
        (((s.causeTaken p sg added (s.causeRecord p sg kind d) (fun c => (f c).released)
          (PortCtx.ended .awaitEnd)).entered p (s.port p).quarantineHeld).resolve p b)) ∧
      ((∃ x, x ≠ sg ∧ s.owns p x = true) → Host.Outcome.next (φ := Fault) (ρ := Refusal) (s.endWithCause sg cause f) = .next
        (s.causeTaken p sg added (s.causeRecord p sg kind d) (fun c => (f c).released) id)) := by
    rintro parked b e added rfl release
    rw [← adds release]
    exact ⟨fun alone => by
      rw [ended, State.closeEnded_address (f := fun c => (f c).released) release alone parked line],
      fun others => by rw [more _ release others]⟩
  unfold State.closeCutShort
  simp only [clean]
  refine ⟨fun a => endings _ _ rfl, endings _ _ rfl, endings _ _ rfl, fun a => endings _ _ rfl, fun parked b =>
    ⟨addresses parked _ _ _ rfl, addresses parked _ _ _ rfl, fun e notStop => ?_⟩, fun release quiet => ?_⟩
  · cases e with
    | stop => contradiction
    | hold => exact addresses parked _ _ _ rfl
    | stopAfterAbort a => exact addresses parked _ _ _ rfl
    | abort a => exact addresses parked _ _ _ rfl
  · have none : (s.port p).addsRecord = !((s.port p).abortReported || (s.port p).refusalLeft) := by
      rw [PortCtx.addsRecord, release]
      rfl
    rw [ended, State.causeTaken_more (.inl release), none]
    refine congrArg Host.Outcome.next ?_
    rcases quiet with phase | phase | ⟨x, other, mark, line⟩
    · exact State.collect_silent (.inl (by rw [State.port_causeTaken]; exact phase))
    · exact State.collect_silent (.inr (by rw [State.port_causeTaken]; exact phase))
    · refine State.collect_waiting (x := x) ?_ ?_
      · rw [← mark, State.markOf, State.markOf, State.port_causeTaken]
        rfl
      · rw [State.sgc_causeTaken, if_neg other]
        exact line

end Sys2Proof.Machine
end

section
/-! Arbitration losses, conditions seen and stuck lines on a segment that nobody else waits for (R83 to R89, R120, R122,
R126 to R130). -/

namespace Sys2Proof.Machine

/-! ### What the causes leave of the controller -/

theorem Sgc.released_lostBus : (fun c : Sgc => c.lostBus.released) = Sgc.left .foreign true := rfl

theorem Sgc.released_busError_start : (fun c : Sgc => (c.busError .start).released) = Sgc.left .foreign true := rfl

theorem Sgc.released_busError_stop : (fun c : Sgc => (c.busError .stop).released) = Sgc.left .idle false := rfl

theorem Sgc.line_busError (seen : BusCondition) (c : Sgc) : (c.busError seen).line ≠ .parked := by cases seen <;> nofun

/-! ### The pins of others change none of the conditions -/

theorem State.unwanted.sampled {s : State} {sg : Seg} (h : s.unwanted sg) (low : List Seg) :
    (s.sampleLines low).unwanted sg := ⟨h.list, h.sets⟩

theorem State.single.sampled {s : State} {p : Port} {sg : Seg} (h : s.single p sg) (low : List Seg) :
    (s.sampleLines low).single p sg := ⟨h.owner, h.alone, h.noSet⟩

theorem State.underWay.sampled {s : State} {p : Port} {r : Route} (h : s.underWay p r) (low : List Seg) :
    (s.sampleLines low).underWay p r := ⟨h.alone.sampled low, h.route, h.release, h.quarantine, h.closing⟩

theorem State.memberAtWork.sampled {s : State} {p : Port} {sg : Seg} {set : List Member} (h : s.memberAtWork p sg set)
    (low : List Seg) : (s.sampleLines low).memberAtWork p sg set :=
  ⟨h.owner, h.bset, h.mark, h.release, h.closing, h.waits⟩

/-! ### Conditions seen (R86) -/

/-- R86: a condition seen within a byte or a STOP of the part's own. -/
theorem State.conditionSeen_master {s : State} {sg : Seg}
    (line : (s.sgc sg).line = .address ∨ (s.sgc sg).line = .write ∨ (s.sgc sg).line = .read ∨ (s.sgc sg).line = .stopping)
    (seen : BusCondition) : s.conditionSeen sg seen = s.endWithCause sg .downstreamError (Sgc.busError seen) := by
  unfold State.conditionSeen
  rcases line with line | line | line | line <;> simp only [line]

theorem State.awaitsByte.line {s : State} {p : Port} {sg : Seg} (h : s.awaitsByte p sg) :
    (s.sgc sg).line = .address ∨ (s.sgc sg).line = .write ∨ (s.sgc sg).line = .read := by
  rcases h with ⟨line, _⟩ | ⟨line, _⟩ | ⟨line, _⟩
  · exact .inl line
  · exact .inr (.inl line)
  · exact .inr (.inr line)

theorem State.awaitsByte.clock {s : State} {p : Port} {sg : Seg} (h : s.awaitsByte p sg)
    (phase : (s.port p).phase = .fwdWrite) : (s.port p).sclHeld = true := by
  rcases h with ⟨_, other⟩ | ⟨_, _, clock⟩ | ⟨_, other⟩
  · simp [phase] at other
  · exact clock
  · simp [phase] at other

/-- Settles O30: the condition ends a single transaction, a close, or one member of a broadcast. -/
theorem downstreamErrorAborts : Obligations.DownstreamErrorAborts := by
  refine ⟨?_, ?_, ?_⟩
  · intro s p low r under byte list aborted
    have line : (s.sgc r.seg).line = .address ∨ (s.sgc r.seg).line = .write ∨ (s.sgc r.seg).line = .read ∨
        (s.sgc r.seg).line = .stopping := byte.line.imp_right (Or.imp_right .inl)
    have seen := fun u => (State.conditionSeen_master (s := s.sampleLines low) line u).trans
      (State.endWithCause_single (under.sampled low) list byte.clock (cause := .downstreamError)
        (fun _ _ _ => rfl) (Sgc.busError u))
    exact ⟨congrArg Host.Outcome.next (seen .start), congrArg Host.Outcome.next (seen .stop)⟩
  · intro s p k sg low owner closing list line ended
    have seen := fun u => State.endWithCause_closing (s := s.sampleLines low) owner closing list (cause := .downstreamError)
      (fun _ _ _ => rfl) (Sgc.line_busError u _)
    have same := fun u => State.conditionSeen_master (s := s.sampleLines low) line u
    constructor
    · have := seen .start
      rw [← same] at this
      exact this
    · have := seen .stop
      rw [← same] at this
      exact this
  · intro s p sg set low list aborted
    refine ⟨fun work line => ?_, fun owner hset mark release closing line phase clock others last => ?_⟩
    · have seen := fun u => (State.conditionSeen_master (s := s.sampleLines low) (line.imp_right .inl) u).trans
        (State.endWithCause_atWork (work.sampled low) list (cause := .downstreamError) (fun _ _ _ => rfl)
          (Sgc.busError u))
      exact ⟨congrArg Host.Outcome.next (seen .start), congrArg Host.Outcome.next (seen .stop)⟩
    · obtain ⟨x, other, hx⟩ := others
      have result := State.memberAborted_result (s := s.sampleLines low) (sg := sg) set release .abortDownstreamError .zero
        (Sgc.left .foreign true)
      have port : ((aborted (Sgc.left .foreign true)).port p) =
          { s.port p with bset := some (droppedFrom set sg), abortReported := true } := State.port_modPort_same _ p _
      have collected := (result.complete fun y e hy => last y e ((markIn_droppedFrom_owned set sg y).mp hy).2).byte
        ((congrArg PortCtx.phase port).trans phase) ((congrArg PortCtx.sclHeld port).trans clock)
      rw [if_neg (result.some_left ((markIn_droppedFrom_owned set sg x).mpr ⟨other, hx⟩))] at collected
      exact congrArg Host.Outcome.next ((State.conditionSeen_master (s := s.sampleLines low) (.inr (.inl line)) .start).trans
        ((State.endWithCause_member (s := s.sampleLines low) owner hset release closing list (cause := .downstreamError)
          (fun _ _ _ => rfl) _).trans collected))

/-! ### Arbitration losses (R83 to R85) -/

/-- R84: a loss of the address that is retried. -/
theorem State.arbitrationLoss_retried {s : State} {sg : Seg} (line : (s.sgc sg).line = .address)
    (closing : (s.sgc sg).closing = false) (retry : (s.sgc sg).retry < 3) :
    s.arbitrationLoss sg .bit = s.modSgc sg Sgc.retryAddress := by
  unfold State.arbitrationLoss
  simp only [line]
  rw [if_neg (by simp [closing, Config.retryLimit]; omega)]

theorem State.arbitrationLoss_address {s : State} {sg : Seg} (line : (s.sgc sg).line = .address)
    (spent : (s.sgc sg).closing = true ∨ 3 ≤ (s.sgc sg).retry) :
    s.arbitrationLoss sg .bit = s.endWithCause sg .lostAddress Sgc.lostBus := by
  unfold State.arbitrationLoss
  simp only [line]
  rw [if_pos (by simpa using spent)]

theorem State.arbitrationLoss_data {s : State} {sg : Seg}
    (line : (s.sgc sg).line = .write ∨
      ((s.sgc sg).line = .parked ∨ (s.sgc sg).line = .stopping) ∧ (s.sgc sg).nackOut = true) :
    s.arbitrationLoss sg .bit = s.endWithCause sg .lostData Sgc.lostBus := by
  unfold State.arbitrationLoss
  rcases line with line | ⟨line | line, nack⟩
  · simp only [line]
  · simp only [line, nack, if_true]
  · simp only [line, nack, if_true]

theorem State.arbitrationLoss_rs {s : State} {sg : Seg} (line : (s.sgc sg).line = .address)
    (rs : (s.sgc sg).formingRs = true) : s.arbitrationLoss sg .repeatedStart = s.endWithCause sg .lostData Sgc.lostBus := by
  unfold State.arbitrationLoss
  simp only [line, rs, if_true]

/-- Settles O31: by the point of the loss, and whether it is retried, ends a transaction, a close, or one member. -/
theorem arbitrationLossRetriesThreeTimes : Obligations.ArbitrationLossRetriesThreeTimes := by
  refine ⟨?_, ?_, ?_, ?_⟩
  · intro s p low r single route closing line retry
    exact congrArg Host.Outcome.next (State.arbitrationLoss_retried (s := s.sampleLines low) line closing retry)
  · intro s p low r under list aborted
    have ended := fun (cause : AbortCause) (d : Detail) record clock =>
      State.endWithCause_single (under.sampled low) list clock (cause := cause) (kind := .abortLost) (d := d)
        record Sgc.lostBus
    refine ⟨fun line retry phase => ?_, fun point => ?_, fun line rs phase => ?_⟩ <;> refine congrArg Host.Outcome.next ?_
    · exact (State.arbitrationLoss_address (s := s.sampleLines low) line (.inr (Nat.le_of_eq retry.symm))).trans
        (ended .lostAddress _ (fun _ _ _ => rfl) fun other => by simp [phase] at other)
    · rcases point with ⟨line, phase, clock⟩ | ⟨line, nack, phase⟩
      · exact (State.arbitrationLoss_data (s := s.sampleLines low) (.inl line)).trans
          (ended .lostData _ (fun _ _ _ => rfl) fun _ => clock)
      · exact (State.arbitrationLoss_data (s := s.sampleLines low) (.inr ⟨.inl line, nack⟩)).trans
          (ended .lostData _ (fun _ _ _ => rfl) fun other => by simp [phase] at other)
    · exact (State.arbitrationLoss_rs (s := s.sampleLines low) line rs).trans
        (ended .lostData _ (fun _ _ _ => rfl) fun other => by simp [phase] at other)
  · intro s p k sg low owner closing list ended
    have closed := fun (cause : AbortCause) (d : Detail) record =>
      State.endWithCause_closing (s := s.sampleLines low) owner closing list (cause := cause) (kind := .abortLost) (d := d)
        record (f := Sgc.lostBus) nofun
    refine ⟨fun line => ?_, fun point => ?_, fun line rs => ?_⟩
    · have := closed .lostAddress _ fun _ _ _ => rfl
      rw [← State.arbitrationLoss_address (s := s.sampleLines low) line (.inl closing)] at this
      exact this
    · have := closed .lostData _ fun _ _ _ => rfl
      rw [← State.arbitrationLoss_data (s := s.sampleLines low) (point.imp_right (And.imp_left .inr))] at this
      exact this
    · have := closed .lostData _ fun _ _ _ => rfl
      rw [← State.arbitrationLoss_rs (s := s.sampleLines low) line rs] at this
      exact this
  · intro s p sg set low work
    refine ⟨fun line retry => ?_, fun list d point => ?_⟩ <;> refine congrArg Host.Outcome.next ?_
    · exact State.arbitrationLoss_retried (s := s.sampleLines low) line work.closing retry
    · rcases point with ⟨line, retry, rfl⟩ | ⟨line, rfl⟩
      · exact (State.arbitrationLoss_address (s := s.sampleLines low) line (.inr (Nat.le_of_eq retry.symm))).trans
          (State.endWithCause_atWork (work.sampled low) list (fun _ _ _ => rfl) _)
      · exact (State.arbitrationLoss_data (s := s.sampleLines low) (.inl line)).trans
          (State.endWithCause_atWork (work.sampled low) list (fun _ _ _ => rfl) _)

/-! ### Stuck lines (R87 to R89) -/

/-- R89: a controller that goes into recovery. -/
def Sgc.intoRecovery (q : Port) (c : Sgc) : Sgc := { c with origin := some (.automatic q), line := .recovery }

theorem Sgc.released_intoRecovery (q : Port) : (fun c : Sgc => (c.intoRecovery q).released) = Sgc.recovering q := rfl

theorem State.markOf_handAbort {s : State} {o : Owner} {sg : Seg} {cause : AbortCause} {q : Port}
    (h : s.markOf q sg ≠ some .pending) : (s.handAbort o sg cause).markOf q sg ≠ some .pending := by
  obtain ⟨p, k⟩ := o
  have bset : ∀ f : PortCtx → PortCtx, (f (s.port p)).bset = (s.port p).bset →
      (s.modPort p f).markOf q sg = s.markOf q sg := fun f hf => by
    by_cases e : q = p
    · subst e; simp only [State.markOf, State.port_modPort_same, hf]
    · simp only [State.markOf, State.port_modPort_ne _ _ _ e]
  cases k with
  | single =>
    have kept : ((s.port p).aborted .cause).bset = (s.port p).bset := by
      simp only [PortCtx.aborted, PortCtx.abortFace, PortCtx.answer, PortCtx.stopTimers, PortCtx.stopHold, PortCtx.stopIdle]
      split <;> (try split) <;> rfl
    have same : (s.handAbort ⟨p, .single⟩ sg cause).markOf q sg = s.markOf q sg := bset _ kept
    rw [same]
    exact h
  | broadcast =>
    by_cases e : q = p
    · subst e
      have dropped : (s.handAbort ⟨q, .broadcast⟩ sg cause).markOf q sg = (s.markMember q sg .dropped).markOf q sg := by
        simp only [State.markOf, State.handAbort, State.abortMember, State.markMember, State.port_writeRecord,
          State.port_modPort_same]
      rw [dropped, State.markOf_markMember, if_pos rfl]
      cases s.markOf q sg <;> simp
    · have same : (s.handAbort ⟨p, .broadcast⟩ sg cause).markOf q sg = s.markOf q sg := by
        simp only [State.markOf, State.handAbort, State.abortMember, State.port_writeRecord, State.port_modPort_ne _ _ _ e]
      rw [same]
      exact h

theorem State.segs_handAbort (s : State) (o : Owner) (sg : Seg) (cause : AbortCause) :
    (s.handAbort o sg cause).segs = s.segs := by
  unfold State.handAbort
  split <;> rfl

/-- R89: where nobody else waits, a stuck line is a cause like another, and the controller goes into recovery. -/
theorem State.stuckDetected_unwanted {s : State} {sg : Seg} {o : Owner} (owner : (s.seg sg).owner = some o)
    (unwanted : s.unwanted sg) (line : BusLine) :
    s.stuckDetected sg line = s.endWithCause sg (.stuck line) (Sgc.intoRecovery o.port) := by
  obtain ⟨list, sets⟩ := unwanted
  unfold State.stuckDetected State.endWithCause
  rw [owner]
  simp only
  cases closing : (s.sgc sg).closing with
  | true =>
    have left : (s.modSgc sg (Sgc.intoRecovery o.port)).conditionLeft sg = s.modSgc sg (Sgc.intoRecovery o.port) :=
      State.conditionLeft_unwanted ⟨list, sets⟩
    simp only [if_true]
    exact congrArg (fun t : State => (t.releaseSeg sg (some (.stuck line))).collect o.port) left
  | false =>
    have left : ((s.handAbort o sg (.stuck line)).modSgc sg (Sgc.intoRecovery o.port)).conditionLeft sg =
        (s.handAbort o sg (.stuck line)).modSgc sg (Sgc.intoRecovery o.port) :=
      State.conditionLeft_unwanted ⟨by rw [State.seg_modSgc, State.seg, State.segs_handAbort]; exact list,
        fun q => State.markOf_handAbort (sets q)⟩
    simp only [Bool.false_eq_true, if_false]
    exact congrArg (fun t : State => (t.releaseSeg sg none).collect o.port) left

theorem State.stuck_scl {s : State} {sg : Seg}
    (h : (s.sgc sg).line = .address ∨ (s.sgc sg).line = .write ∨ (s.sgc sg).line = .read ∨ (s.sgc sg).line = .stopping ∨
      s.awaitsLines sg) : s.stuck sg .scl = s.stuckDetected sg .scl := by
  refine if_pos ?_
  rcases h with line | line | line | line | ⟨line, busy⟩
  all_goals simp only [Sgc.stuckSclApplies, line]
  rw [busy]
  rfl

theorem State.stuck_sda {s : State} {sg : Seg}
    (h : (s.sgc sg).line = .stopping ∨ (s.sgc sg).line = .address ∧ (s.sgc sg).formingRs = true ∨ s.awaitsLines sg) :
    s.stuck sg .sda = s.stuckDetected sg .sda := by
  refine if_pos ?_
  rcases h with line | ⟨line, rs⟩ | ⟨line, busy⟩
  · simp only [Sgc.stuckSdaApplies, line]
  · simp only [Sgc.stuckSdaApplies, line, rs]
  · simp only [Sgc.stuckSdaApplies, line]
    rw [busy]
    rfl

/-- Settles O25: each stuck line is detected where the controller looks for it, and is then a cause like another. -/
theorem stuckLinesAbortTheTransaction : Obligations.StuckLinesAbortTheTransaction := by
  refine ⟨?_, ?_, ?_⟩
  · intro s p low r under unwanted aborted
    have ended := fun (line : BusLine) (clock : (s.port p).phase = .fwdWrite → (s.port p).sclHeld = true) =>
      (State.stuckDetected_unwanted (s := s.sampleLines low) under.alone.owner (unwanted.sampled low) line).trans
        (State.endWithCause_single (under.sampled low) unwanted.list clock (cause := .stuck line)
          (kind := .abortStuck) (d := stuckDetail line) (fun _ _ _ => rfl) _)
    refine ⟨fun point => ?_, fun phase point => ?_⟩ <;> refine congrArg Host.Outcome.next ?_
    · have clock : (s.port p).phase = .fwdWrite → (s.port p).sclHeld = true := fun phase => by
        rcases point with byte | ⟨_, other⟩
        · exact byte.clock phase
        · simp [phase] at other
      refine (State.stuck_scl (s := s.sampleLines low) ?_).trans (ended .scl clock)
      rcases point with byte | ⟨lines, _⟩
      · exact byte.line.imp_right (Or.imp_right .inl)
      · exact .inr (.inr (.inr (.inr lines)))
    · exact (State.stuck_sda (s := s.sampleLines low) (.inr point.symm)).trans
        (ended .sda fun other => by simp [phase] at other)
  · intro s p k sg low owner closing unwanted ended
    have closed := fun (line : BusLine) =>
      State.endWithCause_closing (s := s.sampleLines low) owner closing unwanted.list (cause := .stuck line)
        (kind := .abortStuck) (d := stuckDetail line) (fun _ _ _ => rfl) (f := Sgc.intoRecovery p) nofun
    have detected := State.stuckDetected_unwanted (s := s.sampleLines low) owner (unwanted.sampled low)
    refine ⟨fun line => ?_, fun line => ?_⟩
    · have := closed .scl
      rw [← detected, ← State.stuck_scl (s := s.sampleLines low)
        (line.imp_right (Or.imp_right (Or.imp_right .inl)))] at this
      exact this
    · have := closed .sda
      rw [← detected, ← State.stuck_sda (s := s.sampleLines low) (line.imp_right .inl)] at this
      exact this
  · intro s p sg set low work unwanted aborted
    have ended := fun (line : BusLine) =>
      (State.stuckDetected_unwanted (s := s.sampleLines low) work.owner (unwanted.sampled low) line).trans
        (State.endWithCause_atWork (work.sampled low) unwanted.list (cause := .stuck line) (kind := .abortStuck)
          (d := stuckDetail line) (fun _ _ _ => rfl) _)
    refine ⟨fun point => ?_, fun lines => ?_⟩ <;> refine congrArg Host.Outcome.next ?_
    · refine (State.stuck_scl (s := s.sampleLines low) ?_).trans (ended .scl)
      rcases point with line | line | lines
      · exact .inl line
      · exact .inr (.inl line)
      · exact .inr (.inr (.inr (.inr lines)))
    · exact (State.stuck_sda (s := s.sampleLines low) (.inr (.inr lines))).trans (ended .sda)

end Sys2Proof.Machine
end

section
/-! STATUS and LEASE_LIST (R18, R38, R161, R169): their payloads byte by byte (Tables 10-4, 10-5). -/

namespace Sys2Proof.Machine

/-! ### Bytes laid out in fields -/

theorem statusByte_eq (p : Port) (privileged quarantined : Bool) {errors : Nat} (h : errors ≤ 4) :
    portCode p ||| BitVec.ofNat 8 (bitIf privileged 4 + bitIf quarantined 8 + 16 * errors) =
      BitVec.ofNat 8 ((portCode p).toNat + bitIf privileged 4 + bitIf quarantined 8 + 16 * errors) := by
  interval_cases errors <;> cases p <;> cases privileged <;> cases quarantined <;> decide

theorem portCode_or_condition (p : Port) (c : Condition) :
    portCode p ||| BitVec.ofNat 8 (16 * conditionCode c) =
      BitVec.ofNat 8 ((portCode p).toNat + 16 * conditionCode c) := by
  cases p <;> cases c <;> decide

theorem segByte_eq (s : State) (sg : Seg) :
    segByte s sg = BitVec.ofNat 8 ((match (s.seg sg).owner with
      | some o => (portCode o.port).toNat
      | none => 7) + 16 * conditionCode (s.condition sg)) := by
  unfold segByte
  rcases (s.seg sg).owner with _ | ⟨p, k⟩
  · cases s.condition sg <;> decide
  · exact portCode_or_condition p _

theorem portCode_segCode_eq (p : Port) (sg : Seg) : portCode p <<< 4 ||| segCode sg = portCode p * 16 + segCode sg := by
  cases p <;> cases sg <;> decide

theorem leaseBytes_eq (l : Lease) :
    leaseBytes l = [l.id, portCode l.holder * 16 + segCode l.seg, (l.target.map addrCode).getD 0] ++
      wordBytes l.remaining := by
  rw [leaseBytes, portCode_segCode_eq]

/-- R161: four bytes for up to four ids, the rest 0. -/
theorem statusPayload_ids {ids : List Byte} (h : ids.length ≤ 4) :
    (ids ++ [0, 0, 0, 0]).take 4 = ids ++ List.replicate (4 - ids.length) 0 := by
  match ids, h with
  | [], _ => rfl
  | [_], _ => rfl
  | [_, _], _ => rfl
  | [_, _, _], _ => rfl
  | [_, _, _, _], _ => rfl

/-- Table 10-5: what stands before the ids, the ids, and what stands after them. -/
theorem statusPayload_eq (s : State) (p : Port) (held : (s.leasesHeld p).length ≤ 4) :
    statusPayload s p =
      [portCode p ||| BitVec.ofNat 8 (bitIf (privileged s.straps p) 4 + bitIf (s.port p).quarantined 8 +
          16 * (s.port p).errCount), BitVec.ofNat 8 (s.log p).records.length, (s.port p).holdLimit, (s.port p).idleLimit] ++
        wordBytes (s.port p).mask ++ [BitVec.ofNat 8 (s.leasesHeld p).length] ++
        ((s.leasesHeld p).map (·.id) ++ List.replicate (4 - (s.leasesHeld p).length) 0) ++
        (Port.all.map (fun q => portByte (s.port q)) ++ Seg.all.map (segByte s)) := by
  have ids := statusPayload_ids (ids := (s.leasesHeld p).map (·.id)) (by simpa using held)
  rw [List.length_map] at ids
  simp only [statusPayload, ids, List.length_map, List.append_assoc]

/-- Settles O40: the payload is the fields in order, one case for each number of leases held (R47). -/
theorem statusAndLeaseListReportTheState : Obligations.StatusAndLeaseListReportTheState := by
  refine ⟨fun s p low asked errors records held => ?_, fun s p low asked => ?_⟩
  · refine ⟨statusPayload (s.sampleLines low) p, ?_, ?_⟩
    · exact congrArg Host.Outcome.next (State.takeCommand_of_body ((s.asked_sampleLines low p _ _).mpr asked) rfl rfl nofun
        nofun (body := statusBody p) rfl rfl)
    · rw [statusPayload_eq (s.sampleLines low) p held, statusByte_eq (errors := ((s.sampleLines low).port p).errCount) _ _ _ errors]
      have port : ∀ q, (s.sampleLines low).port q = s.port q := fun _ => rfl
      have ids : (s.sampleLines low).leasesHeld p = s.leasesHeld p := rfl
      have segs := segByte_eq (s.sampleLines low)
      rw [ids]
      generalize s.leasesHeld p = ls at held
      match ls, held with
      | [], _ =>
        refine ⟨rfl, rfl, rfl, rfl, rfl, rfl, rfl, rfl, rfl, fun q => ?_, fun sg => ?_⟩
        · cases q <;> rfl
        · cases sg <;> exact congrArg some (segs _)
      | [_], _ =>
        refine ⟨rfl, rfl, rfl, rfl, rfl, rfl, rfl, rfl, rfl, fun q => ?_, fun sg => ?_⟩
        · cases q <;> rfl
        · cases sg <;> exact congrArg some (segs _)
      | [_, _], _ =>
        refine ⟨rfl, rfl, rfl, rfl, rfl, rfl, rfl, rfl, rfl, fun q => ?_, fun sg => ?_⟩
        · cases q <;> rfl
        · cases sg <;> exact congrArg some (segs _)
      | [_, _, _], _ =>
        refine ⟨rfl, rfl, rfl, rfl, rfl, rfl, rfl, rfl, rfl, fun q => ?_, fun sg => ?_⟩
        · cases q <;> rfl
        · cases sg <;> exact congrArg some (segs _)
      | [_, _, _, _], _ =>
        refine ⟨rfl, rfl, rfl, rfl, rfl, rfl, rfl, rfl, rfl, fun q => ?_, fun sg => ?_⟩
        · cases q <;> rfl
        · cases sg <;> exact congrArg some (segs _)
  · have body : leaseListBody [] (s.sampleLines low) = ⟨s.sampleLines low, ⟨.ok, BitVec.ofNat 8 s.leases.length ::
        s.leases.flatMap fun l =>
          [l.id, portCode l.holder * 16 + segCode l.seg, (l.target.map addrCode).getD 0] ++ wordBytes l.remaining⟩⟩ := by
      rw [← funext leaseBytes_eq]
      rfl
    exact congrArg Host.Outcome.next (State.takeCommand_of_body ((s.asked_sampleLines low p _ _).mpr asked) rfl rfl nofun
      nofun body rfl)

end Sys2Proof.Machine
end

section
/-! A broadcast formed and acquired (R104, R112 to R115, R119): the set, the segments left out, and the segments taken in
ascending order. -/

namespace Sys2Proof.Machine

/-! ### The set and the segments left out (R104, R114) -/

/-- R29: every lease of another port on a segment covers a general call on it. -/
theorem State.coveringLease_generalCall (s : State) (p : Port) (sg : Seg) :
    s.coveringLease p sg .generalCall = s.leases.find? fun l => l.seg == sg && l.holder != p := by
  unfold State.coveringLease
  refine congrArg (List.find? · s.leases) (funext fun l => ?_)
  simp [Lease.covers, Bool.and_comm]

theorem State.receives_eq (s : State) (p : Port) (sg : Seg) :
    s.receives p sg = (s.mayReceive sg && (s.coveringLease p sg .generalCall).isNone) := by
  rw [State.coveringLease_generalCall, State.receives]
  refine congrArg (s.mayReceive sg && ·) ?_
  rw [Bool.eq_iff_iff, List.all_eq_true, Option.isNone_iff_eq_none, List.find?_eq_none]
  refine forall₂_congr fun l _ => ?_
  simp only [Bool.or_eq_true, bne_iff_ne, beq_iff_eq, Bool.and_eq_true, ne_eq, not_and, not_not]
  exact ⟨fun h same => h.resolve_left (· same), fun h => or_iff_not_imp_left.mpr fun same => h (not_not.mp same)⟩

theorem State.broadcastMembers_eq (s : State) (p : Port) :
    s.broadcastMembers p = (Seg.all.filter (s.receives p)).map fun sg => ⟨sg, .pending⟩ := by
  unfold State.broadcastMembers
  exact congrArg (fun f => (Seg.all.filter f).map _) (funext fun sg => (s.receives_eq p sg).symm)

theorem State.broadcastExcluded_eq (s : State) (p : Port) : s.broadcastExcluded p = s.shutOut p := by
  unfold State.broadcastExcluded State.shutOut
  simp only [State.coveringLease_generalCall]
  rfl

/-- R113, R114: a general call write from a fresh port, by whether its set is empty. -/
theorem exec_addressByte_generalCall {s : State} {p : Port} (fresh : (s.port p).fresh)
    (free : (s.port p).quarantined = false) (low : List Seg) :
    exec (.addressByte p ⟨0, .write⟩ low) s = .next (if Seg.all.filter (s.receives p) = [] then
        ((s.sampleLines low).modPort p PortCtx.addressNacked).shutOutRecorded p (s.shutOut p)
      else State.acquire p Seg.all (((s.sampleLines low).modPort p fun c => PortCtx.forming
        ((Seg.all.filter (s.receives p)).map fun x => ⟨x, .pending⟩) (!(s.shutOut p).isEmpty) c.resolving).shutOutRecorded p
          (s.shutOut p))) := by
  have resolving : (s.sampleLines low).resolve p ⟨0, .write⟩ =
      ((s.sampleLines low).modPort p PortCtx.resolving).formBroadcast p := by
    rw [State.resolve_eq, State.resolution_generalCall (s := s.sampleLines low) free]
  have members : ((s.sampleLines low).modPort p PortCtx.resolving).broadcastMembers p = s.broadcastMembers p := rfl
  have left : ((s.sampleLines low).modPort p PortCtx.resolving).broadcastExcluded p = s.broadcastExcluded p := rfl
  rw [exec_addressByte_fresh fresh, resolving, State.formBroadcast_eq, members, left, State.broadcastMembers_eq,
    State.broadcastExcluded_eq, State.modPort_resolving_refused, State.modPort_modPort]
  simp only [List.map_eq_nil_iff]

theorem State.receives_unflagged {s : State} {x : Seg} (h : (s.sgc x).broadcastFlag = false) (p : Port) :
    s.receives p x = false := by simp [State.receives, State.mayReceive, h]

/-- R114: the segment alone flagged, leased by another port, is the one left out. -/
theorem State.shutOut_leased {s : State} {p : Port} {sg : Seg} (flag : s.onlyFlagged sg)
    (cond : s.condition sg = .available) (ok : LeaseTableOk s) {l : Lease} (hl : l ∈ s.leases) (on : l.seg = sg)
    (other : l.holder ≠ p) (lowest : ∀ m ∈ s.leases, m.seg = sg → m.holder ≠ p → l.id.toNat ≤ m.id.toNat) :
    (∀ x, s.receives p x = false) ∧ s.shutOut p = [(sg, l.id)] := by
  have may : ∀ x, s.mayReceive x = decide (x = sg) := fun x => by
    by_cases e : x = sg
    · subst e; simp [State.mayReceive, flag.1, cond]
    · simp [State.mayReceive, flag.2 x e, e]
  have found : (s.leases.find? fun l => l.seg == sg && l.holder != p) = some l :=
    find_eq_of_lowest ok.ascending hl (by simp [on, other]) fun m hm fm => by
      simp only [Bool.and_eq_true, beq_iff_eq, bne_iff_ne] at fm
      exact lowest m hm fm.1 fm.2
  refine ⟨fun x => ?_, ?_⟩
  · by_cases e : x = sg
    · rw [State.receives_eq, State.coveringLease_generalCall, e, found]
      exact Bool.and_false _
    · exact State.receives_unflagged (flag.2 x e) p
  · unfold State.shutOut
    simp only [may]
    have chosen : ∀ x, (if decide (x = sg) = true then
        (s.leases.find? fun l => l.seg == x && l.holder != p).map fun l => (x, l.id) else none) =
        if x = sg then some (sg, l.id) else none := fun x => by
      by_cases e : x = sg
      · subst e; simp [found]
      · simp [e]
    simp only [chosen]
    cases sg <;> rfl

theorem Seg.all_split (w : Seg) : ∃ pre rest, Seg.all = pre ++ w :: rest ∧ pre.Nodup ∧
    ∀ x, x ∈ pre ↔ (segCode x).toNat < (segCode w).toNat := by
  cases w
  · exact ⟨[], _, rfl, by decide, fun x => by cases x <;> decide⟩
  · exact ⟨[.s0], _, rfl, by decide, fun x => by cases x <;> decide⟩
  · exact ⟨[.s0, .s1], _, rfl, by decide, fun x => by cases x <;> decide⟩
  · exact ⟨[.s0, .s1, .s2], _, rfl, by decide, fun x => by cases x <;> decide⟩
  · exact ⟨[.s0, .s1, .s2, .s3], _, rfl, by decide, fun x => by cases x <;> decide⟩
  · exact ⟨[.s0, .s1, .s2, .s3, .s4], _, rfl, by decide, fun x => by cases x <;> decide⟩

/-! ### The acquisition, segment by segment (R115, R119) -/

/-- A port's set as the acquisition has left it: the members a test holds of are OWNED, the others PENDING. -/
def membersOwned (members : List Seg) (owned : Seg → Bool) : List Member :=
  members.map fun x => ⟨x, if owned x then .owned else .pending⟩

/-- The port has taken the segments a test holds of, in a set of these members. -/
def State.acquired (s : State) (p : Port) (members : List Seg) (owned : Seg → Bool) : State :=
  { s.modPort p fun c => { c with bset := some (membersOwned members owned) } with
    segs := s.segs.mapAll fun x r => if owned x then { r with owner := some ⟨p, .broadcast⟩ } else r }

section
variable {s : State} {p : Port} {members : List Seg} {owned : Seg → Bool}

theorem markIn_membersOwned (x : Seg) :
    markIn (membersOwned members owned) x =
      if x ∈ members then some (if owned x then .owned else .pending) else none := by
  unfold membersOwned
  induction members with
  | nil => rfl
  | cons a rest ih =>
    rw [List.map_cons, markIn_cons, ih]
    by_cases e : x = a
    · subst e; simp
    · have e' : a ≠ x := fun h => e h.symm
      simp [e, e']

theorem State.markOf_acquired (x : Seg) :
    (s.acquired p members owned).markOf p x =
      if x ∈ members then some (if owned x then .owned else .pending) else none := by
  have set : ((s.acquired p members owned).port p).bset = some (membersOwned members owned) := by
    simp [State.acquired, State.port, State.modPort]
  rw [State.markOf_of_set set, markIn_membersOwned]

theorem State.seg_acquired (x : Seg) :
    (s.acquired p members owned).seg x =
      if owned x then { s.seg x with owner := some ⟨p, .broadcast⟩ } else s.seg x := by
  simp [State.acquired, State.seg]

/-- The claim of a member not yet taken finds what it would have found before the acquisition. -/
theorem State.arrival_acquired {x : Seg} (h : owned x = false) :
    (s.acquired p members owned).arrival p x .generalCall = s.arrival p x .generalCall :=
  State.arrival_congr (s := s) (t := s.acquired p members owned) rfl rfl
    (by rw [State.seg_acquired, h]; rfl) p _

/-- Nothing taken yet. -/
theorem State.acquired_none (h : (s.port p).bset = some (members.map fun x => ⟨x, .pending⟩)) :
    s.acquired p members (fun _ => false) = s := by
  have port : s.modPort p (fun c => { c with bset := some (membersOwned members fun _ => false) }) = s :=
    State.modPort_self s p _ (by rw [membersOwned]; simp only [Bool.false_eq_true, if_false]; rw [← h])
  have segs : (s.segs.mapAll fun _ r => r) = s.segs := PerSeg.ext_get fun x => by simp
  unfold State.acquired
  rw [port]
  simp only [Bool.false_eq_true, if_false, segs]

theorem setMark_membersOwned (x : Seg) :
    setMark (membersOwned members owned) x .owned = membersOwned members fun y => owned y || y == x := by
  unfold setMark membersOwned
  rw [List.map_map]
  refine List.map_congr_left fun y _ => ?_
  by_cases e : y = x
  · subst e; simp
  · simp [e]

/-- R10, R113: one more segment granted. -/
theorem State.acquired_grant (x : Seg) :
    ((s.acquired p members owned).setOwner p x .generalCall).markMember p x .owned =
      s.acquired p members fun y => owned y || y == x := by
  have ports : ((s.modPort p fun c => { c with bset := some (membersOwned members owned) }).modPort p fun c =>
      { c with bset := c.bset.map fun set => setMark set x .owned }) =
      s.modPort p fun c => { c with bset := some (membersOwned members fun y => owned y || y == x) } := by
    rw [State.modPort_modPort]
    refine State.modPort_congr s p _ _ ?_
    simp only [Option.map_some, setMark_membersOwned]
  have segs : ((s.segs.mapAll fun y r => if owned y then { r with owner := some ⟨p, .broadcast⟩ } else r).modify x
      fun r => { r with owner := some ⟨p, Dest.kind .generalCall⟩ }) =
      s.segs.mapAll fun y r => if (owned y || y == x) = true then { r with owner := some ⟨p, .broadcast⟩ } else r :=
    PerSeg.ext_get fun y => by
      by_cases e : y = x
      · subst e
        cases h : owned y <;> simp [h, Dest.kind]
      · simp [e]
  calc ((s.acquired p members owned).setOwner p x .generalCall).markMember p x .owned
      = { (s.modPort p fun c => { c with bset := some (membersOwned members owned) }).modPort p fun c =>
          { c with bset := c.bset.map fun set => setMark set x .owned } with
          segs := (s.segs.mapAll fun y r => if owned y then { r with owner := some ⟨p, .broadcast⟩ } else r).modify x
            fun r => { r with owner := some ⟨p, Dest.kind .generalCall⟩ } } := rfl
    _ = _ := by rw [ports, segs]; rfl

/-- R115: while the members met are free, each is taken. -/
theorem State.acquire_free (rest : List Seg) {pre : List Seg} (nodup : pre.Nodup) (fresh : ∀ x ∈ pre, owned x = false)
    (free : ∀ x ∈ pre, x ∈ members → s.arrival p x .generalCall = .granted) :
    State.acquire p (pre ++ rest) (s.acquired p members owned) =
      State.acquire p rest (s.acquired p members fun y => owned y || decide (y ∈ members ∧ y ∈ pre)) := by
  induction pre generalizing owned with
  | nil => simp
  | cons x pre ih =>
    obtain ⟨hx, nodup⟩ := List.nodup_cons.mp nodup
    have mark := State.markOf_acquired (s := s) (p := p) (members := members) (owned := owned) x
    have here : owned x = false := fresh x List.mem_cons_self
    rw [List.cons_append, State.acquire, mark, here]
    by_cases member : x ∈ members
    · rw [if_pos (by simp [member]), State.arrival_acquired here, free x List.mem_cons_self member]
      simp only []
      rw [State.acquired_grant, ih nodup (fun y hy => ?_) fun y hy => free y (List.mem_cons_of_mem _ hy)]
      · refine congrArg (State.acquire p rest) (congrArg (s.acquired p members) (funext fun y => ?_))
        by_cases e : y = x
        · subst e; simp [member]
        · simp [e, beq_eq_false_iff_ne.mpr e]
      · have : y ≠ x := fun e => hx (e ▸ hy)
        simp [fresh y (List.mem_cons_of_mem _ hy), this]
    · rw [if_neg (by simp [member]), ih nodup (fun y hy => fresh y (List.mem_cons_of_mem _ hy)) fun y hy =>
        free y (List.mem_cons_of_mem _ hy)]
      refine congrArg (State.acquire p rest) (congrArg (s.acquired p members) (funext fun y => ?_))
      by_cases e : y = x
      · subst e; simp [member]
      · simp [e]

/-- R115: the first member that is owned is waited for, the members below it taken. -/
theorem State.acquire_waits {w : Seg} (member : w ∈ members) (queued : s.arrival p w .generalCall = .queued)
    (free : ∀ x ∈ members, (segCode x).toNat < (segCode w).toNat → s.arrival p x .generalCall = .granted) :
    State.acquire p Seg.all (s.acquired p members fun _ => false) =
      (s.acquired p members fun y => decide (y ∈ members ∧ (segCode y).toNat < (segCode w).toNat)).enqueueClaim p w
        .generalCall := by
  obtain ⟨pre, rest, split, nodup, hpre⟩ := Seg.all_split w
  rw [split, State.acquire_free (w :: rest) nodup (fun _ _ => rfl) fun x hx hm => free x hm ((hpre x).mp hx)]
  simp only [Bool.false_or, hpre]
  have self : decide (w ∈ members ∧ (segCode w).toNat < (segCode w).toNat) = false := by simp
  rw [State.acquire, State.markOf_acquired, if_pos member, self, if_pos (by decide), State.arrival_acquired self, queued]

/-- R119: with every member free the acquisition ends with all of them. -/
theorem State.acquire_all (free : ∀ x ∈ members, s.arrival p x .generalCall = .granted) :
    State.acquire p Seg.all (s.acquired p members fun _ => false) =
      (s.acquired p members fun y => decide (y ∈ members)).acquisitionEnd p := by
  rw [← List.append_nil Seg.all, State.acquire_free [] Seg.nodup_all (fun _ _ => rfl) fun x _ hm => free x hm]
  simp only [Bool.false_or, Seg.mem_all, and_true]
  rfl

end

/-! ### The end of the acquisition (R119) -/

theorem Sgc.beginAddress_called {c : Sgc} (h : c.line = .idle ∨ c.line = .foreign) (low : Bool) :
    c.beginAddress low .generalCall .write = c.called low := by
  rcases h with h | h
  · cases low
    · simp [Sgc.beginAddress_idle h, Sgc.called, h]
    · simp [Sgc.beginAddress_low h, Sgc.called, h]
  · simp [Sgc.beginAddress_foreign h, Sgc.called, h]

/-- R119: with some member OWNED the port is OPEN and every OWNED member is asked to begin. -/
theorem State.acquisitionEnd_begins {s : State} {p : Port} {x : Seg} (hx : s.markOf p x = some .owned) :
    s.acquisitionEnd p = { s.modPort p fun c => { c with phase := .opening } with
      sgcs := s.sgcs.mapAll fun y c =>
        if s.markOf p y = some .owned then c.beginAddress (s.linesLow.get y) .generalCall .write else c } := by
  have begun : (s.ownedMembers p).foldl (fun t sg => t.beginOn sg .generalCall .write)
      (s.modPort p fun c => { c with phase := .opening }) =
      { s.modPort p fun c => { c with phase := .opening } with
        sgcs := s.sgcs.mapAll fun y c =>
          if s.markOf p y = some .owned then c.beginAddress (s.linesLow.get y) .generalCall .write else c } := by
    rw [State.foldl_eq_mapAll (g := fun y => Sgc.beginAddress (s.linesLow.get y) .generalCall .write)
      (s.nodup_ownedMembers p)]
    · simp only [State.mem_ownedMembers]
      rfl
    · intro t ht y _ _
      have lines := congrArg State.linesLow ht
      change t.linesLow = s.linesLow at lines
      rw [State.beginOn, lines]
  rw [← begun]
  unfold State.acquisitionEnd
  split
  · rename_i none
    have := State.mem_ownedMembers.mpr hx
    rw [none] at this
    contradiction
  · rfl

/-! ### The whole acquisition of a set just formed -/

theorem State.shutOutRecorded_logs (s : State) (p : Port) (left : List (Seg × Byte)) :
    { s.shutOutRecorded p left with logs := s.logs } = s := by
  have same := State.foldl_writeRecords_logs (left.map fun x => refusalRecord (.reservedElsewhere x.2) (some 0) (some x.1)) p s
  rw [List.foldl_map] at same
  exact same

/-- A port whose set is formed, in CLAIM or already OPEN, its members marked by a test. -/
def State.formed (s : State) (p : Port) (left : List (Seg × Byte)) (phase : Phase) (set : List Member) : State :=
  (s.modPort p fun c => { c.addressing phase none (some set) with refusalLeft := !left.isEmpty }).shutOutRecorded p left

theorem State.formed_rest (s : State) (p : Port) (left : List (Seg × Byte)) (phase : Phase) (set : List Member) :
    { s.formed p left phase set with ports := s.ports, logs := s.logs } = s :=
  congrArg (fun t : State => { t with ports := s.ports }) (State.shutOutRecorded_logs (s.modPort p fun c =>
    { c.addressing phase none (some set) with refusalLeft := !left.isEmpty }) p left)

theorem State.segs_formed (s : State) (p : Port) (left : List (Seg × Byte)) (phase : Phase) (set : List Member) :
    (s.formed p left phase set).segs = s.segs := by
  have := congrArg State.segs (s.formed_rest p left phase set)
  exact this

theorem State.acquired_formed (s : State) (p : Port) (left : List (Seg × Byte)) (phase : Phase) (members : List Seg)
    (set : List Member) (owned : Seg → Bool) :
    (s.formed p left phase set).acquired p members owned =
      { s.formed p left phase (membersOwned members owned) with
        segs := s.segs.mapAll fun x r => if owned x then { r with owner := some ⟨p, .broadcast⟩ } else r } := by
  have segs : (s.formed p left phase set).segs = s.segs := s.segs_formed p left phase set
  unfold State.acquired
  rw [segs, State.formed, State.modPort_shutOutRecorded _ _ _ (fun c => { c with bset := some (membersOwned members owned) })
    fun _ => rfl, State.modPort_modPort]
  rfl

/-- R119: the port of a formed set is OPEN at the end of the acquisition. -/
theorem State.formed_opens (s : State) (p : Port) (left : List (Seg × Byte)) (set : List Member) :
    (s.formed p left .claim set).modPort p (fun c => { c with phase := .opening }) = s.formed p left .opening set := by
  rw [State.formed, State.modPort_shutOutRecorded _ _ _ (fun c => { c with phase := .opening }) fun _ => rfl,
    State.modPort_modPort]
  rfl

theorem State.acquisitionEnd_formed {s : State} {p : Port} {left : List (Seg × Byte)} {set : List Member} {members : List Seg}
    (some' : members ≠ []) (lines : ∀ x ∈ members, (s.sgc x).line = .idle ∨ (s.sgc x).line = .foreign) :
    ((s.formed p left .claim set).acquired p members fun y => decide (y ∈ members)).acquisitionEnd p =
      { s.formed p left .opening (members.map fun x => ⟨x, .owned⟩) with
        segs := s.segs.mapAll fun x r => if x ∈ members then { r with owner := some ⟨p, .broadcast⟩ } else r
        sgcs := s.sgcs.mapAll fun x c => if x ∈ members then c.called (s.linesLow.get x) else c } := by
  have marks : membersOwned members (fun y => decide (y ∈ members)) = members.map fun x => ⟨x, .owned⟩ :=
    List.map_congr_left fun y hy => by rw [if_pos (decide_eq_true hy)]
  have ports : ((s.formed p left .claim set).acquired p members fun y => decide (y ∈ members)).modPort p
      (fun c => { c with phase := .opening }) = { s.formed p left .opening (members.map fun x => ⟨x, .owned⟩) with
        segs := s.segs.mapAll fun x r => if x ∈ members then { r with owner := some ⟨p, .broadcast⟩ } else r } := by
    rw [State.acquired_formed, marks]
    simp only [decide_eq_true_eq]
    exact congrArg (fun t : State => { t with
      segs := s.segs.mapAll fun x r => if x ∈ members then { r with owner := some ⟨p, .broadcast⟩ } else r })
      (State.formed_opens s p left (members.map fun x => ⟨x, .owned⟩))
  have sgcs := congrArg State.sgcs (s.formed_rest p left .claim set)
  change (s.formed p left .claim set).sgcs = s.sgcs at sgcs
  have linesLow := congrArg State.linesLow (s.formed_rest p left .claim set)
  change (s.formed p left .claim set).linesLow = s.linesLow at linesLow
  have calls : ((s.formed p left .claim set).sgcs.mapAll fun y c =>
      if ((s.formed p left .claim set).acquired p members fun y => decide (y ∈ members)).markOf p y = some .owned then
        c.beginAddress ((s.formed p left .claim set).linesLow.get y) .generalCall .write else c) =
      s.sgcs.mapAll fun x c => if x ∈ members then c.called (s.linesLow.get x) else c := by
    rw [sgcs, linesLow]
    refine PerSeg.mapAll_congr fun y => ?_
    rw [State.markOf_acquired]
    by_cases hy : y ∈ members
    · rw [if_pos hy, if_pos (decide_eq_true hy), if_pos rfl, if_pos hy]
      exact Sgc.beginAddress_called (lines y hy) _
    · rw [if_neg hy, if_neg nofun, if_neg hy]
  obtain ⟨x, hx⟩ := List.exists_mem_of_ne_nil _ some'
  rw [State.acquisitionEnd_begins (x := x) (by rw [State.markOf_acquired, if_pos hx, if_pos (decide_eq_true hx)]), ports,
    ← calls]
  rfl

theorem State.arrival_formed (s : State) (p : Port) (left : List (Seg × Byte)) (phase : Phase) (set : List Member) (x : Seg) :
    (s.formed p left phase set).arrival p x .generalCall = s.arrival p x .generalCall := by
  have sgcs := congrArg State.sgcs (s.formed_rest p left phase set)
  have leases := congrArg State.leases (s.formed_rest p left phase set)
  change (s.formed p left phase set).sgcs = s.sgcs at sgcs
  refine State.arrival_congr leases ?_ ?_ p _
  · simp only [State.condition, State.sgc, sgcs]
  · rw [State.seg, State.segs_formed, State.seg]

theorem State.arrival_receives {s : State} {p : Port} {x : Seg} (h : s.receives p x = true) :
    s.arrival p x .generalCall = match (s.seg x).owner with | none => .granted | some _ => .queued := by
  rw [State.receives_eq] at h
  simp only [State.mayReceive, Bool.and_eq_true, Option.isNone_iff_eq_none, beq_iff_eq] at h
  cases ho : (s.seg x).owner with
  | none => exact State.arrival_eq_granted h.2 h.1.2 ho
  | some o => exact State.arrival_eq_queued h.2 h.1.2 ho

/-- R113, R115: a general call write whose set is not empty, as the acquisition of the set just formed. -/
theorem exec_addressByte_acquires {s : State} {p : Port} (fresh : (s.port p).fresh)
    (free : (s.port p).quarantined = false) (low : List Seg) (some' : Seg.all.filter (s.receives p) ≠ []) :
    exec (.addressByte p ⟨0, .write⟩ low) s = .next (State.acquire p Seg.all
      (((s.sampleLines low).formed p (s.shutOut p) .claim
        (membersOwned (Seg.all.filter (s.receives p)) fun _ => false)).acquired p (Seg.all.filter (s.receives p))
          fun _ => false)) := by
  rw [exec_addressByte_generalCall fresh free, if_neg some', State.acquired_formed]
  have segs : ((s.sampleLines low).segs.mapAll fun _ r => r) = s.segs := PerSeg.ext_get fun x => by simp [State.sampleLines]
  have same : ((s.sampleLines low).formed p (s.shutOut p) .claim
      (membersOwned (Seg.all.filter (s.receives p)) fun _ => false)).segs = s.segs := State.segs_formed _ _ _ _ _
  simp only [Bool.false_eq_true, if_false, segs]
  rw [← same]
  rfl

/-- The members of a set just formed, by the test that R104 gives. -/
theorem State.mem_members {s : State} {p : Port} {x : Seg} : x ∈ Seg.all.filter (s.receives p) ↔ s.receives p x = true := by
  simp [Seg.mem_all]

/-- Settles O11: the set and the segments left out are those of R104 and R114; the acquisition takes the free members in
ascending order up to the first that is owned, or all of them. -/
theorem broadcastIsFormedOrNacked : Obligations.BroadcastIsFormedOrNacked := by
  refine ⟨fun s p low fresh free => ?_, fun s p low fresh free => ?_⟩
  · have nacked : (∀ x, s.receives p x = false) → exec (.addressByte p ⟨0, .write⟩ low) s =
        .next (((s.sampleLines low).modPort p PortCtx.addressNacked).shutOutRecorded p (s.shutOut p)) := fun none => by
      rw [exec_addressByte_generalCall fresh free, if_pos (List.filter_eq_nil_iff.mpr fun x _ => by simp [none x])]
    refine ⟨fun unflagged => ?_, fun sg flag cond ok l hl on other lowest => ?_, nacked⟩
    · have none : s.shutOut p = [] := List.filterMap_eq_nil_iff.mpr fun x _ => by
        simp [State.mayReceive, unflagged x]
      rw [nacked fun x => State.receives_unflagged (unflagged x) p, none]
      rfl
    · obtain ⟨none, left⟩ := State.shutOut_leased flag cond ok hl on other lowest
      rw [nacked none, left]
      rfl
  · intro members formed below
    have arrival : ∀ set x, s.receives p x = true →
        ((s.sampleLines low).formed p (s.shutOut p) .claim set).arrival p x .generalCall =
          match (s.seg x).owner with | none => .granted | some _ => .queued := fun set x hx =>
      (State.arrival_formed _ _ _ _ _ x).trans (State.arrival_receives hx)
    constructor
    · intro w o hw owner free'
      have member : w ∈ members := State.mem_members.mpr hw
      rw [exec_addressByte_acquires fresh free low (List.ne_nil_of_mem member)]
      rw [State.acquire_waits member (by rw [arrival _ w hw, owner]) fun x hx lt => ?_]
      · have taken : (fun y => decide (y ∈ members ∧ (segCode y).toNat < (segCode w).toNat)) = fun y => below y w :=
          funext fun y => by simp only [members, below, State.mem_members, Bool.decide_and, Bool.decide_eq_true]
        rw [taken, State.acquired_formed, State.enqueueClaim]
        refine congrArg (fun v => Host.Outcome.next { formed .claim (fun x => if below x w then .owned else .pending) with
          segs := v }) (PerSeg.ext_get fun y => ?_)
        by_cases e : y = w
        · subst e
          simp [State.sampleLines, below]
        · simp [State.sampleLines, e]
      · have hx' := State.mem_members.mp hx
        rw [arrival _ x hx', free' x (by simp [below, hx', lt])]
    · intro some' unowned
      rw [exec_addressByte_acquires fresh free low some', State.acquire_all fun x hx => by
        rw [arrival _ x (State.mem_members.mp hx), (unowned x (State.mem_members.mp hx)).1]]
      rw [State.acquisitionEnd_formed (s := s.sampleLines low) (members := Seg.all.filter (s.receives p)) some' fun x hx =>
        (unowned x (State.mem_members.mp hx)).2]
      refine congrArg₂ (fun v w => Host.Outcome.next { formed .opening (fun _ => .owned) with segs := v, sgcs := w })
        (PerSeg.mapAll_congr fun x => ?_) (PerSeg.mapAll_congr fun x => ?_)
      · simp only [State.mem_members]
      · simp only [State.mem_members, State.linesLow_sampleLines]

end Sys2Proof.Machine
end

section
/-! What an operation for one port leaves alone: the other ports and their logs, and the controllers that are out of use;
and what becomes of those that a flush or a hand-over turns away (R13, R17, R116, R117). -/

namespace Sys2Proof.Machine

/-- The port's pending cause is not ADDRESS (R44). -/
def PortCtx.noAddress (c : PortCtx) : Prop := ∀ b e, c.release ≠ some (.address b e)

/-- What every operation done for a port leaves alone: the other ports and their logs, the controller of a segment that is
not AVAILABLE, that no address byte is held for a reply or for a release, and the quarantine unless one is held back. -/
structure ActsFor (p : Port) (s t : State) : Prop where
  port : ∀ q, q ≠ p → t.port q = s.port q
  log : ∀ q, q ≠ p → t.log q = s.log q
  sgc : ∀ x, s.condition x ≠ .available → t.sgc x = s.sgc x
  held : (s.port p).heldAddr = none → (t.port p).heldAddr = none
  noAddress : (s.port p).noAddress → (t.port p).noAddress
  quarantine : (s.port p).quarantineHeld = false →
    (t.port p).quarantineHeld = false ∧ (t.port p).quarantined = (s.port p).quarantined

theorem ActsFor.refl (p : Port) (s : State) : ActsFor p s s :=
  ⟨fun _ _ => rfl, fun _ _ => rfl, fun _ _ => rfl, id, id, fun h => ⟨h, rfl⟩⟩

theorem ActsFor.condition {p : Port} {s t : State} (h : ActsFor p s t) {x : Seg} (away : s.condition x ≠ .available) :
    t.condition x = s.condition x := by
  rw [State.condition, h.sgc x away, State.condition]

theorem ActsFor.trans {p : Port} {s t u : State} (h : ActsFor p s t) (g : ActsFor p t u) : ActsFor p s u where
  port q e := (g.port q e).trans (h.port q e)
  log q e := (g.log q e).trans (h.log q e)
  sgc x away := (g.sgc x (by rw [h.condition away]; exact away)).trans (h.sgc x away)
  held none := g.held (h.held none)
  noAddress ok := g.noAddress (h.noAddress ok)
  quarantine ok := by
    obtain ⟨held, same⟩ := h.quarantine ok
    obtain ⟨held', same'⟩ := g.quarantine held
    exact ⟨held', same'.trans same⟩

theorem ActsFor.foldl {α : Type} {p : Port} (f : State → α → State) (hf : ∀ s a, ActsFor p s (f s a)) (as : List α)
    (s : State) : ActsFor p s (as.foldl f s) := by
  induction as generalizing s with
  | nil => exact .refl p s
  | cons a rest ih => exact (hf s a).trans (ih _)

theorem ActsFor.modPort (s : State) (p : Port) (f : PortCtx → PortCtx)
    (h : (s.port p).heldAddr = none → (f (s.port p)).heldAddr = none := by exact id)
    (hr : (s.port p).noAddress → (f (s.port p)).noAddress := by exact id)
    (hq : (s.port p).quarantineHeld = false → (f (s.port p)).quarantineHeld = false ∧
      (f (s.port p)).quarantined = (s.port p).quarantined := by exact fun h => ⟨h, rfl⟩) : ActsFor p s (s.modPort p f) where
  port _ e := State.port_modPort_ne s p f e
  log _ _ := rfl
  sgc _ _ := rfl
  held none := by rw [State.port_modPort_same]; exact h none
  noAddress ok := by rw [State.port_modPort_same]; exact hr ok
  quarantine ok := by rw [State.port_modPort_same]; exact hq ok

theorem ActsFor.writeRecord (s : State) (p : Port) (b : RecordBody) : ActsFor p s (s.writeRecord p b) where
  port _ _ := rfl
  log _ e := State.log_writeRecord_ne s p b e
  sgc _ _ := rfl
  held := id
  noAddress := id
  quarantine ok := ⟨ok, rfl⟩

theorem ActsFor.modSeg (p : Port) (s : State) (sg : Seg) (f : SegRecord → SegRecord) : ActsFor p s (s.modSeg sg f) :=
  ⟨fun _ _ => rfl, fun _ _ => rfl, fun _ _ => rfl, id, id, fun h => ⟨h, rfl⟩⟩

theorem Sgc.beginAddress_unavailable {c : Sgc} (h : lineCondition c.line ≠ .available) (low : Bool) (d : Dest) (dir : Dir) :
    c.beginAddress low d dir = c := by
  unfold Sgc.beginAddress
  cases line : c.line <;> rw [line] at h <;> first | rfl | exact absurd rfl h

theorem State.beginOn_actsFor (p : Port) (s : State) (sg : Seg) (d : Dest) (dir : Dir) : ActsFor p s (s.beginOn sg d dir) where
  port _ _ := rfl
  log _ _ := rfl
  sgc x away := by
    by_cases e : x = sg
    · subst e
      rw [State.beginOn, State.sgc_modSgc_same]
      exact Sgc.beginAddress_unavailable away _ d dir
    · exact State.sgc_modSgc_ne s sg _ e
  held := id
  noAddress := id
  quarantine ok := ⟨ok, rfl⟩

/-! ### Claims and their answers -/

theorem State.refuse_actsFor (s : State) (p : Port) (b : RecordBody) : ActsFor p s (s.refuse p b) :=
  (ActsFor.modPort s p PortCtx.refused).trans (.writeRecord _ p b)

theorem State.openSingle_actsFor (s : State) (p : Port) : ActsFor p s (s.openSingle p) := by
  unfold State.openSingle
  simp only
  split
  · exact (ActsFor.modPort s p _).trans (State.beginOn_actsFor p _ _ _ _)
  all_goals exact .modPort s p _

theorem State.markMember_actsFor (s : State) (p : Port) (sg : Seg) (m : Mark) : ActsFor p s (s.markMember p sg m) :=
  .modPort s p _

theorem State.dropMember_actsFor (s : State) (p : Port) (sg : Seg) (why : RefusalReason) :
    ActsFor p s (s.dropMember p sg why) :=
  ((State.markMember_actsFor s p sg _).trans (.modPort _ p _)).trans (.writeRecord _ p _)

theorem State.acquisitionEnd_actsFor (s : State) (p : Port) : ActsFor p s (s.acquisitionEnd p) := by
  unfold State.acquisitionEnd
  split
  · exact .modPort s p PortCtx.refused
  · exact (ActsFor.modPort s p _).trans (.foldl _ (fun t sg => State.beginOn_actsFor p t sg _ _) _ _)

theorem State.acquire_actsFor (p : Port) (sgs : List Seg) (s : State) : ActsFor p s (State.acquire p sgs s) := by
  induction sgs generalizing s with
  | nil => exact State.acquisitionEnd_actsFor s p
  | cons sg rest ih =>
    unfold State.acquire
    split
    · split
      · exact (State.dropMember_actsFor s p sg _).trans (ih _)
      · exact ((ActsFor.modSeg p s sg _).trans (State.markMember_actsFor _ p sg _)).trans (ih _)
      · exact .modSeg p s sg _
    · exact ih s

theorem State.acquireNext_actsFor (s : State) (p : Port) : ActsFor p s (s.acquireNext p) := by
  unfold State.acquireNext
  split
  · exact State.acquire_actsFor p _ s
  · exact .refl p s

theorem State.claimSingle_actsFor (s : State) (p : Port) (r : Route) : ActsFor p s (s.claimSingle p r) := by
  have claiming := ActsFor.modPort s p (PortCtx.claiming r)
  rw [State.claimSingle_eq]
  split
  · exact claiming.trans (State.refuse_actsFor _ p _)
  · exact (claiming.trans (.modSeg p _ _ _)).trans (State.openSingle_actsFor _ p)
  · exact claiming.trans (.modSeg p _ _ _)

theorem State.formBroadcast_actsFor (s : State) (p : Port) : ActsFor p s (s.formBroadcast p) := by
  have recorded : ∀ t : State, ActsFor p t (t.shutOutRecorded p (s.broadcastExcluded p)) :=
    fun t => .foldl _ (fun t x => .writeRecord t p _) _ t
  rw [State.formBroadcast_eq]
  split
  · exact (ActsFor.modPort s p PortCtx.refused).trans (recorded _)
  · exact ((ActsFor.modPort s p (PortCtx.forming _ _)).trans (recorded _)).trans (State.acquire_actsFor p _ _)

theorem State.resolve_actsFor (s : State) (p : Port) (b : AddrByte) : ActsFor p s (s.resolve p b) := by
  have resolving : ActsFor p s (s.modPort p PortCtx.resolving) := .modPort s p _ fun _ => rfl
  rw [State.resolve_eq]
  split
  · exact resolving.trans (.modPort _ p PortCtx.refused)
  · exact resolving.trans (State.formBroadcast_actsFor _ p)
  · rename_i dir _
    exact resolving.trans (.modPort _ p _ (by cases dir <;> exact id) (by cases dir <;> exact id)
      (by cases dir <;> exact fun h => ⟨h, rfl⟩))
  · exact resolving.trans (State.refuse_actsFor _ p _)
  · exact resolving.trans (State.claimSingle_actsFor _ p _)

/-! ### Releases -/

theorem State.enterQuarantine_actsFor {s : State} {p : Port} (held : (s.port p).quarantineHeld = true) :
    ActsFor p s (s.enterQuarantine p) := by
  have cleared : ∀ ls : List Lease, ActsFor p s ((s.modPort p fun c =>
      { c with quarantined := true, quarantineHeld := false }).setLeases ls) := fun ls =>
    (ActsFor.modPort s p (fun c => { c with quarantined := true, quarantineHeld := false }) id id
      fun ok => Bool.noConfusion (held.symm.trans ok)).trans
      ⟨fun _ _ => rfl, fun _ _ => rfl, fun _ _ => rfl, id, id, fun h => ⟨h, rfl⟩⟩
  unfold State.enterQuarantine
  exact ((cleared _).trans (.foldl _ (fun t l => .writeRecord t p _) _ _)).trans (.writeRecord _ p _)

theorem State.actOnPending_actsFor (s : State) (p : Port) (pend : Pending) : ActsFor p s (s.actOnPending p pend) := by
  rcases pend with e | ⟨b, e⟩
  · rw [State.actOnPending_ending]
    exact .modPort s p _
  · exact State.resolve_actsFor s p b

theorem State.finishRelease_actsFor (s : State) (p : Port) (pend : Pending) : ActsFor p s (s.finishRelease p pend) := by
  have finished : ActsFor p s (s.modPort p (PortCtx.finished pend)) := .modPort s p _ id fun _ _ _ => nofun
  rw [State.finishRelease_eq]
  refine ActsFor.trans ?_ (State.actOnPending_actsFor _ p pend)
  split
  · rename_i held
    exact finished.trans (State.enterQuarantine_actsFor (by rw [State.port_modPort_same]; exact held))
  · exact finished

theorem State.portReleased_actsFor (s : State) (p : Port) : ActsFor p s (s.portReleased p) := by
  unfold State.portReleased
  split
  · split
    · exact State.finishRelease_actsFor s p _
    · exact .refl p s
  · exact .refl p s

theorem State.takeCause_actsFor (s : State) (p : Port) (sg : Seg) (cause : Option AbortCause) :
    ActsFor p s (s.takeCause p sg cause) := by
  unfold State.takeCause
  split
  · exact .refl p s
  · simp only
    split
    · exact (ActsFor.writeRecord s p _).trans (.modPort _ p _)
    · exact .modPort s p _

theorem PortCtx.heldAddr_aborted (setter : AbortSetter) (c : PortCtx) : (c.aborted setter).heldAddr = c.heldAddr := by
  unfold PortCtx.aborted PortCtx.abortFace
  split
  · rfl
  · split <;> rfl
  all_goals rfl

theorem PortCtx.quarantine_aborted (setter : AbortSetter) (c : PortCtx) :
    (c.aborted setter).quarantineHeld = c.quarantineHeld ∧ (c.aborted setter).quarantined = c.quarantined := by
  unfold PortCtx.aborted PortCtx.abortFace
  split
  · exact ⟨rfl, rfl⟩
  · split <;> exact ⟨rfl, rfl⟩
  all_goals exact ⟨rfl, rfl⟩

theorem State.handAbort_actsFor (s : State) (o : Owner) (sg : Seg) (cause : AbortCause) :
    ActsFor o.port s (s.handAbort o sg cause) := by
  unfold State.handAbort
  split
  · exact (ActsFor.modPort s o.port (PortCtx.aborted .cause) (fun none =>
      (PortCtx.heldAddr_aborted _ _).trans none) (fun _ _ _ => nofun) fun ok =>
        ⟨(PortCtx.quarantine_aborted _ _).1.trans ok, (PortCtx.quarantine_aborted _ _).2⟩).trans (.writeRecord _ _ _)
  · exact (ActsFor.modPort s o.port _).trans (.writeRecord _ _ _)

theorem State.collect_actsFor (s : State) (p : Port) : ActsFor p s (s.collect p) := by
  unfold State.collect
  simp only
  split
  · split
    · split <;> exact .modPort s p _
    · split
      · exact .refl p s
      · split <;> exact .modPort s p _
    all_goals exact .refl p s
  · exact .refl p s

/-! ### Those turned away -/

theorem State.refuseClaim_actsFor (why : RefusalReason) (sg : Seg) (s : State) (c : Claim) :
    ActsFor c.port s (State.refuseClaim why sg s c) := by
  unfold State.refuseClaim
  split
  · exact State.refuse_actsFor s _ _
  · exact (State.dropMember_actsFor s _ sg why).trans (State.acquireNext_actsFor _ _)

theorem State.dropIfPending_actsFor (why : RefusalReason) (sg : Seg) (s : State) (p : Port) :
    ActsFor p s (State.dropIfPending why sg s p) := by
  unfold State.dropIfPending
  split
  · exact State.dropMember_actsFor s p sg why
  · exact .refl p s

/-- The port and its log are the same in both states. -/
structure SameFor (q : Port) (s t : State) : Prop where
  port : t.port q = s.port q
  log : t.log q = s.log q

theorem SameFor.trans {q : Port} {s t u : State} (h : SameFor q s t) (g : SameFor q t u) : SameFor q s u :=
  ⟨g.port.trans h.port, g.log.trans h.log⟩

theorem ActsFor.same {p q : Port} {s t : State} (h : ActsFor p s t) (e : q ≠ p) : SameFor q s t := ⟨h.port q e, h.log q e⟩

theorem SameFor.markOf {q : Port} {s t : State} (h : SameFor q s t) (x : Seg) : t.markOf q x = s.markOf q x := by
  rw [State.markOf, h.port, State.markOf]

section
variable {α : Type} {f : State → α → State} {who : α → Port} (acts : ∀ s a, ActsFor (who a) s (f s a)) {q : Port}

include acts

/-- A fold of operations for other ports. -/
theorem SameFor.foldl_others {as : List α} (h : (as.filter fun a => who a == q) = []) (s : State) :
    SameFor q s (as.foldl f s) := by
  induction as generalizing s with
  | nil => exact ⟨rfl, rfl⟩
  | cons a rest ih =>
    obtain ⟨other, others⟩ := List.forall_mem_cons.mp (List.filter_eq_nil_iff.mp h)
    exact ((acts s a).same fun e => other (by simp [e])).trans (ih (List.filter_eq_nil_iff.mpr others) _)

/-- A fold of operations of which one is for the port: it meets the port and the log as they were before the fold. -/
theorem SameFor.foldl_one {as : List α} {a : α} (h : (as.filter fun a => who a == q) = [a]) (s : State) :
    ∃ u, SameFor q s u ∧ SameFor q (f u a) (as.foldl f s) := by
  induction as generalizing s with
  | nil => contradiction
  | cons b rest ih =>
    by_cases e : who b = q
    · rw [List.filter_cons_of_pos (by simpa using e)] at h
      obtain ⟨rfl, none⟩ := List.cons.inj h
      exact ⟨s, ⟨rfl, rfl⟩, SameFor.foldl_others acts none _⟩
    · rw [List.filter_cons_of_neg (by simpa using e)] at h
      obtain ⟨u, before, after⟩ := ih h (f s b)
      exact ⟨u, ((acts s b).same fun e' => e e'.symm).trans before, after⟩

end

/-! ### One port turned away -/

/-- R116, R117: what dropping a member does to the port and its log. -/
theorem State.dropMember_port {s : State} {q : Port} {set : List Member} (hset : (s.port q).bset = some set) (sg : Seg)
    (why : RefusalReason) :
    (s.dropMember q sg why).port q = { s.port q with bset := some (droppedFrom set sg), refusalLeft := true } ∧
      (s.dropMember q sg why).log q = (s.writeRecord q (refusalRecord why (some 0) (some sg))).log q := by
  constructor
  · simp [State.dropMember, State.markMember, hset, setMark_dropped]
  · simp [State.dropMember, State.markMember]

theorem State.acquire_settled {s : State} {p : Port} (h : ∀ x, s.markOf p x ≠ some .pending) (sgs : List Seg) :
    State.acquire p sgs s = s.acquisitionEnd p := by
  induction sgs with
  | nil => rfl
  | cons x rest ih => rw [State.acquire, if_neg (by simpa using h x), ih]

/-- R119: with no member OWNED the address is NACKed. -/
theorem State.acquisitionEnd_nacked {s : State} {p : Port} (h : ∀ x, s.markOf p x ≠ some .owned) :
    s.acquisitionEnd p = s.modPort p PortCtx.refused := by
  have none : s.ownedMembers p = [] := List.filter_eq_nil_iff.mpr fun x _ => by simpa using h x
  unfold State.acquisitionEnd
  rw [none]

/-- R119: the end of an acquisition, for the port. -/
theorem State.acquisitionEnd_port (s : State) (p : Port) :
    (s.acquisitionEnd p).log p = s.log p ∧
    ((∃ x, s.markOf p x = some .owned) → (s.acquisitionEnd p).port p = { s.port p with phase := .opening }) ∧
    ((∀ x, s.markOf p x ≠ some .owned) → (s.acquisitionEnd p).port p = (s.port p).claimRefused) := by
  by_cases owned : ∃ x, s.markOf p x = some .owned
  · obtain ⟨x, hx⟩ := owned
    rw [State.acquisitionEnd_begins hx]
    exact ⟨rfl, fun _ => State.port_modPort_same s p _, fun none => absurd hx (none x)⟩
  · rw [State.acquisitionEnd_nacked fun x hx => owned ⟨x, hx⟩]
    exact ⟨rfl, fun some' => absurd some' owned, fun _ => State.port_modPort_same s p _⟩

/-- R13, R17: every waiting claim taken from the list is refused in list order, then the sets that hold the segment PENDING
drop it. -/
def State.turnAway (s : State) (why : RefusalReason) (sg : Seg) (claims : List Claim) (ports : List Port) : State :=
  ports.foldl (State.dropIfPending why sg) (claims.foldl (State.refuseClaim why sg) s)

theorem State.conditionLeft_eq (s : State) (sg : Seg) :
    s.conditionLeft sg = (s.modSeg sg fun r => { r with waitList := [] }).turnAway .segmentUnavailable sg
      (s.seg sg).waitList Port.all := rfl

section
variable {s : State} {why : RefusalReason} {sg : Seg} {claims : List Claim} {ports : List Port} {q : Port}

/-- A port that has no claim in the list and does not hold the segment PENDING. -/
theorem State.turnAway_spares (none : (claims.filter fun c => c.port == q) = []) (mark : s.markOf q sg ≠ some .pending)
    (one : (ports.filter fun p => p == q) = [q]) : SameFor q s (s.turnAway why sg claims ports) := by
  have first := SameFor.foldl_others (State.refuseClaim_actsFor why sg) none s
  obtain ⟨u, before, after⟩ := SameFor.foldl_one (who := id) (State.dropIfPending_actsFor why sg) one
    (claims.foldl (State.refuseClaim why sg) s)
  have same := first.trans before
  have kept : State.dropIfPending why sg u q = u := if_neg (by simpa [same.markOf] using mark)
  rw [kept] at after
  exact same.trans after

/-- A port that does not hold the segment PENDING any more once its claim is refused. -/
theorem State.turnAway_claim {c : Claim} (claim : (claims.filter fun c => c.port == q) = [c])
    (one : (ports.filter fun p => p == q) = [q])
    (settled : ∀ u, SameFor q s u → (State.refuseClaim why sg u c).markOf q sg ≠ some .pending) :
    ∃ u, SameFor q s u ∧ SameFor q (State.refuseClaim why sg u c) (s.turnAway why sg claims ports) := by
  obtain ⟨u, before, after⟩ := SameFor.foldl_one (State.refuseClaim_actsFor why sg) claim s
  obtain ⟨v, before', after'⟩ := SameFor.foldl_one (who := id) (State.dropIfPending_actsFor why sg) one
    (claims.foldl (State.refuseClaim why sg) s)
  have kept : State.dropIfPending why sg v q = v :=
    if_neg (by simpa [(after.trans before').markOf] using settled u before)
  rw [kept] at after'
  exact ⟨u, before, (after.trans before').trans after'⟩

/-- R13, R17, R51: a SINGLE claim that waits is refused. -/
theorem State.turnAway_single {a : Addr} (claim : (claims.filter fun c => c.port == q) = [⟨q, .device a⟩])
    (one : (ports.filter fun p => p == q) = [q]) :
    (s.turnAway why sg claims ports).port q = (s.port q).claimRefused ∧
      (s.turnAway why sg claims ports).log q =
        (s.writeRecord q (refusalRecord why ((s.port q).route.map (·.visible)) (some sg))).log q := by
  have refused : ∀ u, State.refuseClaim why sg u ⟨q, .device a⟩ =
      u.refuse q (refusalRecord why ((u.port q).route.map (·.visible)) (some sg)) := fun _ => rfl
  have port : ∀ u : State, ∀ b, (u.refuse q b).port q = (u.port q).claimRefused := fun u b => by
    rw [State.refuse, State.port_writeRecord, State.port_modPort_same]
    rfl
  obtain ⟨u, before, after⟩ := State.turnAway_claim (s := s) (why := why) (sg := sg) claim one fun u _ => by
    rw [refused, State.markOf, port]
    exact nofun
  refine ⟨?_, ?_⟩
  · rw [after.port, refused, port, before.port]
  · rw [after.log, refused, State.refuse, State.log_writeRecord_same, State.log_writeRecord_same, State.port_modPort_same,
      before.port, State.log_modPort, before.log]
    rfl

/-- R116, R117: a set that holds the segment PENDING, its claim elsewhere, drops it. -/
theorem State.turnAway_pending {set : List Member} (hset : (s.port q).bset = some set)
    (mark : markIn set sg = some .pending) (none : (claims.filter fun c => c.port == q) = [])
    (one : (ports.filter fun p => p == q) = [q]) :
    (s.turnAway why sg claims ports).port q =
        { s.port q with bset := some (droppedFrom set sg), refusalLeft := true } ∧
      (s.turnAway why sg claims ports).log q = (s.writeRecord q (refusalRecord why (some 0) (some sg))).log q := by
  have first := SameFor.foldl_others (State.refuseClaim_actsFor why sg) none s
  obtain ⟨u, before, after⟩ := SameFor.foldl_one (who := id) (State.dropIfPending_actsFor why sg) one
    (claims.foldl (State.refuseClaim why sg) s)
  have same := first.trans before
  have dropped : State.dropIfPending why sg u q = u.dropMember q sg why :=
    if_pos (by rw [same.markOf, State.markOf_of_set hset, mark]; rfl)
  obtain ⟨port, log⟩ := State.dropMember_port (s := u) (by rw [same.port]; exact hset) sg why
  rw [dropped] at after
  change SameFor q _ (s.turnAway why sg claims ports) at after
  refine ⟨by rw [after.port, port, same.port], ?_⟩
  rw [after.log, log, State.log_writeRecord_same, State.log_writeRecord_same, same.port, same.log]

/-- R115, R118, R119: a broadcast's claim that waits is refused with nothing else PENDING. -/
theorem State.refuseClaim_claimant {u : State} {set : List Member} (hset : (u.port q).bset = some set)
    (last : ∀ x, x ≠ sg → markIn set x ≠ some .pending) :
    (∀ x, (State.refuseClaim why sg u ⟨q, .generalCall⟩).markOf q x ≠ some .pending) ∧
    (State.refuseClaim why sg u ⟨q, .generalCall⟩).log q =
      (u.writeRecord q (refusalRecord why (some 0) (some sg))).log q ∧
    ((u.port q).withdrawal = none →
      ((∃ x, x ≠ sg ∧ markIn set x = some .owned) → (State.refuseClaim why sg u ⟨q, .generalCall⟩).port q =
        { u.port q with phase := .opening, bset := some (droppedFrom set sg), refusalLeft := true }) ∧
      ((∀ x, x ≠ sg → markIn set x ≠ some .owned) → (State.refuseClaim why sg u ⟨q, .generalCall⟩).port q =
        { (u.port q).claimRefused with refusalLeft := true })) ∧
    ((u.port q).withdrawal ≠ none → (State.refuseClaim why sg u ⟨q, .generalCall⟩).port q =
      { u.port q with bset := some (droppedFrom set sg), refusalLeft := true }) := by
  obtain ⟨port, log⟩ := State.dropMember_port hset sg why
  have marks : ∀ x, (u.dropMember q sg why).markOf q x = markIn (droppedFrom set sg) x :=
    State.markOf_of_set (by rw [port])
  have unpending : ∀ x, markIn (droppedFrom set sg) x ≠ some .pending := fun x => by
    rw [← setMark_dropped, markIn_setMark]
    by_cases e : x = sg
    · rw [if_pos e]
      cases markIn set x <;> simp
    · rw [if_neg e]
      exact last x e
  have refused : State.refuseClaim why sg u ⟨q, .generalCall⟩ = (u.dropMember q sg why).acquireNext q := rfl
  have withdrawal : ((u.dropMember q sg why).port q).withdrawal = (u.port q).withdrawal := by rw [port]
  cases sent : (u.port q).withdrawal with
  | some w =>
    have waits : (u.dropMember q sg why).acquireNext q = u.dropMember q sg why :=
      State.acquireNext_withdrawn _ q (by rw [withdrawal, sent]; nofun)
    rw [refused, waits]
    exact ⟨fun x => marks x ▸ unpending x, log, nofun, fun _ => port⟩
  | none =>
    have ends : (u.dropMember q sg why).acquireNext q = (u.dropMember q sg why).acquisitionEnd q := by
      have next : (u.dropMember q sg why).acquireNext q = State.acquire q Seg.all (u.dropMember q sg why) := by
        unfold State.acquireNext
        rw [withdrawal, sent]
      rw [next, State.acquire_settled fun x => marks x ▸ unpending x]
    obtain ⟨endLog, opens, nacked⟩ := State.acquisitionEnd_port (u.dropMember q sg why) q
    simp only [marks, markIn_droppedFrom_owned] at opens nacked
    rw [refused, ends]
    refine ⟨?_, endLog.trans log, fun _ => ⟨fun some' => ?_, fun none => ?_⟩, absurd rfl⟩
    · intro x
      by_cases owned : ∃ x, x ≠ sg ∧ markIn set x = some .owned
      · rw [State.markOf_of_set (set := droppedFrom set sg) (by rw [opens owned, port])]
        exact unpending x
      · have noSet : (((u.dropMember q sg why).acquisitionEnd q).port q).bset = none := by
          rw [nacked fun y hy => owned ⟨y, (markIn_droppedFrom_owned set sg y).mp hy⟩, PortCtx.claimRefused]
        rw [State.markOf, noSet]
        nofun
    · rw [opens some', port]
    · have unowned : ∀ y, markIn (droppedFrom set sg) y ≠ some .owned := fun y hy =>
        have ⟨other, owned⟩ := (markIn_droppedFrom_owned set sg y).mp hy
        none y other owned
      rw [nacked unowned, port]
      rfl

/-- R13, R17, R51, R115 to R119: what a flush or a hand-over does to a port, if each of its claims in the list that is not
for a device outside the lease is taken. -/
theorem State.turnAway_turnedAway {s0 : State} (same : SameFor q s0 s) (one : (ports.filter fun p => p == q) = [q])
    {covered : Addr → Bool}
    (device : ∀ a, covered a = true → ((s0.seg sg).waitList.filter fun c => c.port == q) = [⟨q, .device a⟩] →
      (claims.filter fun c => c.port == q) = [⟨q, .device a⟩])
    (none : ((s0.seg sg).waitList.filter fun c => c.port == q) = [] → (claims.filter fun c => c.port == q) = [])
    (call : ((s0.seg sg).waitList.filter fun c => c.port == q) = [⟨q, .generalCall⟩] →
      (claims.filter fun c => c.port == q) = [⟨q, .generalCall⟩]) :
    s0.turnedAway (s.turnAway why sg claims ports) sg q covered fun v => refusalRecord why v (some sg) := by
  have recorded : ∀ b, (s.writeRecord q b).log q = (s0.writeRecord q b).log q := fun b => by
    rw [State.log_writeRecord_same, State.log_writeRecord_same, same.port, same.log]
  constructor
  case single =>
    intro a cov only _
    obtain ⟨port, log⟩ := State.turnAway_single (s := s) (why := why) (sg := sg) (device a cov only) one
    rw [recorded, same.port] at log
    exact ⟨by rw [port, same.port], log⟩
  case pending =>
    intro set hset mark only
    obtain ⟨port, log⟩ := State.turnAway_pending (s := s) (why := why) (by rw [same.port]; exact hset) mark (none only) one
    exact ⟨by rw [port, same.port], log.trans (recorded _)⟩
  case claimant =>
    intro set hset mark only last
    obtain ⟨u, before, after⟩ := State.turnAway_claim (s := s) (why := why) (sg := sg) (call only) one fun u before =>
      (State.refuseClaim_claimant (by rw [before.port, same.port]; exact hset) last).1 sg
    obtain ⟨_, log, free, sent⟩ := State.refuseClaim_claimant (u := u) (q := q) (why := why) (sg := sg)
      (by rw [before.port, same.port]; exact hset) last
    have both := same.trans before
    rw [both.port] at free sent
    refine ⟨?_, fun h => ⟨fun ⟨x, hx⟩ => ?_, fun none => ?_⟩, fun h => ?_⟩
    · rw [after.log, log, State.log_writeRecord_same, State.log_writeRecord_same, both.port, both.log]
    · rw [after.port]
      exact (free h).1 ⟨x, fun e => by rw [e, mark] at hx; simp at hx, hx⟩
    · rw [after.port]
      exact (free h).2 fun x _ => none x
    · rw [after.port]
      exact sent h

end

/-- Only the port and its log tell whether it is turned away, and only its claims, its port and its log by what. -/
theorem State.turnedAway.congr {s s' t t' : State} {sg : Seg} {q : Port} {covered : Addr → Bool}
    {record : Option Addr → RecordBody} (h : s.turnedAway t sg q covered record) (before : SameFor q s s')
    (list : (s'.seg sg).waitList = (s.seg sg).waitList) (after : SameFor q t t') :
    s'.turnedAway t' sg q covered record := by
  have recorded : ∀ b, (s'.writeRecord q b).log q = (s.writeRecord q b).log q := fun b => by
    rw [State.log_writeRecord_same, State.log_writeRecord_same, before.port, before.log]
  obtain ⟨single, pending, claimant⟩ := h
  constructor
  all_goals simp only [list, before.port, after.port, after.log, recorded]
  · exact single
  · exact pending
  · exact claimant

end Sys2Proof.Machine
end

section
/-! A segment that goes out of use, and a granted lease, turn away those that wait (R13, R17, R31, R89, R96, R116, R117). -/

namespace Sys2Proof.Machine

/-! ### What a flush and a hand-over leave alone -/

theorem Port.filter_all (q : Port) : (Port.all.filter fun p => p == q) = [q] := by cases q <;> rfl

theorem Port.filter_others {p q : Port} (h : q ≠ p) : ((Port.all.filter fun x => x != p).filter fun x => x == q) = [q] := by
  revert h
  cases p <;> cases q <;> decide

theorem ActsFor.held_any {p : Port} {s t : State} (h : ActsFor p s t) {q : Port}
    (noAddress : (s.port q).heldAddr = none) : (t.port q).heldAddr = none := by
  by_cases e : q = p
  · subst e; exact h.held noAddress
  · rw [h.port q e, noAddress]

/-- A fold of operations, each for a port. -/
theorem ActsFor.foldl_any {α : Type} {f : State → α → State} {who : α → Port} (acts : ∀ s a, ActsFor (who a) s (f s a))
    (as : List α) (s : State) :
    (∀ x, s.condition x ≠ .available → (as.foldl f s).sgc x = s.sgc x) ∧
      ∀ q, (s.port q).heldAddr = none → ((as.foldl f s).port q).heldAddr = none := by
  induction as generalizing s with
  | nil => exact ⟨fun _ _ => rfl, fun _ => id⟩
  | cons a rest ih =>
    obtain ⟨sgc, held⟩ := ih (f s a)
    refine ⟨fun x away => ?_, fun q noAddress => held q ((acts s a).held_any noAddress)⟩
    exact (sgc x (by rw [(acts s a).condition away]; exact away)).trans ((acts s a).sgc x away)

section
variable (s : State) (why : RefusalReason) (sg : Seg) (claims : List Claim) (ports : List Port)

theorem State.turnAway_sgc {x : Seg} (away : s.condition x ≠ .available) :
    (s.turnAway why sg claims ports).sgc x = s.sgc x := by
  have first := (ActsFor.foldl_any (State.refuseClaim_actsFor why sg) claims s).1 x away
  refine ((ActsFor.foldl_any (who := id) (State.dropIfPending_actsFor why sg) ports _).1 x ?_).trans first
  rw [State.condition, first]
  exact away

theorem State.turnAway_held {q : Port} (noAddress : (s.port q).heldAddr = none) :
    ((s.turnAway why sg claims ports).port q).heldAddr = none :=
  (ActsFor.foldl_any (who := id) (State.dropIfPending_actsFor why sg) ports _).2 q
    ((ActsFor.foldl_any (State.refuseClaim_actsFor why sg) claims s).2 q noAddress)

end

/-! ### A segment that goes out of use (R13, R116) -/

section
variable (s : State) (sg : Seg)

theorem State.conditionLeft_sgc {x : Seg} (away : s.condition x ≠ .available) :
    (s.conditionLeft sg).sgc x = s.sgc x := by
  have kept := State.turnAway_sgc (s.modSeg sg fun r => { r with waitList := [] }) .segmentUnavailable sg
    (s.seg sg).waitList Port.all away
  exact kept

theorem State.conditionLeft_held {q : Port} (noAddress : (s.port q).heldAddr = none) :
    ((s.conditionLeft sg).port q).heldAddr = none := by
  have kept := State.turnAway_held (s.modSeg sg fun r => { r with waitList := [] }) .segmentUnavailable sg
    (s.seg sg).waitList Port.all noAddress
  exact kept

theorem State.conditionLeft_turnedAway (q : Port) :
    s.turnedAway (s.conditionLeft sg) sg q (fun _ => true) fun v => refusalRecord .segmentUnavailable v (some sg) := by
  have turned := State.turnAway_turnedAway (s0 := s) (s := s.modSeg sg fun r => { r with waitList := [] })
    (why := .segmentUnavailable) (claims := (s.seg sg).waitList) (covered := fun _ => true) ⟨rfl, rfl⟩ (Port.filter_all q)
    (fun _ _ => id) id id
  exact turned

end

/-! ### SEGMENT_RECOVER (R96) -/

theorem segmentRecoverBody_of_seg (p : Port) (sg : Seg) (s : State) :
    segmentRecoverBody p [segCode sg] s =
      if (s.seg sg).owner.isSome || (s.sgc sg).line == .recovery then refusedWith s .busy
      else ⟨s.startRecovery p sg, Reply.bare .ok⟩ := by
  simp only [segmentRecoverBody, segOfByte_segCode]

/-- A recovery asked for by a command. -/
def Sgc.commanded (p : Port) (c : Sgc) : Sgc := { c with line := .recovery, origin := some (.command p), freeCheck := false }

theorem State.startRecovery_eq (s : State) (p : Port) (sg : Seg) :
    s.startRecovery p sg = (s.modSgc sg (Sgc.commanded p)).conditionLeft sg := rfl

/-- Settles O48: the flush of `State.conditionLeft` is what turns the others away. -/
theorem segmentRecoverStartsARecovery : Obligations.SegmentRecoverStartsARecovery := by
  intro s p low b asked
  have answered : ∀ {a : Answered}, segmentRecoverBody p [b] (s.sampleLines low) = a → (a.state.port p).heldAddr = none →
      exec (.segmentRecover p low) s = .next (a.state.answered p a.reply.status a.reply.payload) := fun body none =>
    congrArg Host.Outcome.next (State.takeCommand_answered ((s.asked_sampleLines low p _ _).mpr asked) rfl rfl nofun nofun
      body none)
  refine ⟨fun big => ?_, ?_⟩
  · refine answered (a := refusedWith (s.sampleLines low) .badArgument) ?_ asked.2
    simp only [segmentRecoverBody, segOfByte_eq_none big]
  · rintro sg rfl
    have body := segmentRecoverBody_of_seg p sg (s.sampleLines low)
    refine ⟨fun busy => ?_, fun free line => ?_⟩
    · have taken : ((s.sampleLines low).seg sg).owner.isSome || ((s.sampleLines low).sgc sg).line == .recovery := by
        rcases busy with owned | line
        · simp [Option.isSome_iff_ne_none, owned]
        · simp [line]
      exact answered (body.trans (if_pos taken)) asked.2
    · have untaken : ¬ (((s.sampleLines low).seg sg).owner.isSome || ((s.sampleLines low).sgc sg).line == .recovery) = true := by
        simp [free, line]
      have started := body.trans (if_neg untaken)
      have away : ((s.sampleLines low).modSgc sg (Sgc.commanded p)).condition sg ≠ .available := by
        rw [State.condition_modSgc_same]
        exact nofun
      rw [answered started (State.conditionLeft_held _ sg asked.2)]
      refine ⟨fun unwanted => ?_, _, rfl, ?_, ?_, ?_, ?_, fun q other => ?_⟩
      · have same := State.conditionLeft_unwanted (s := (s.sampleLines low).modSgc sg (Sgc.commanded p)) (sg := sg)
          ⟨unwanted.list, unwanted.sets⟩
        exact congrArg (fun t : State => Host.Outcome.next (t.answered p .ok [])) same
      · exact congrArg PortCtx.reply (State.port_modPort_same _ p _)
      · exact (State.conditionLeft_flushed away).2.1
      all_goals
        have sgc : (((s.sampleLines low).startRecovery p sg).sgc sg) = (s.sgc sg).commanded p :=
          (State.conditionLeft_sgc _ sg away).trans (State.sgc_modSgc_same _ sg _)
      · exact congrArg Sgc.line sgc
      · exact congrArg Sgc.origin sgc
      · exact (State.conditionLeft_turnedAway ((s.sampleLines low).modSgc sg (Sgc.commanded p)) sg q).congr ⟨rfl, rfl⟩ rfl ⟨State.port_modPort_ne _ p _ other, rfl⟩

/-! ### A lease handed over (R17, R31, R117) -/

theorem State.acquisitionEnd_seg (s : State) (p : Port) (x : Seg) : (s.acquisitionEnd p).seg x = s.seg x := by
  by_cases owned : ∃ y, s.markOf p y = some .owned
  · obtain ⟨y, hy⟩ := owned
    rw [State.acquisitionEnd_begins hy]
    rfl
  · rw [State.acquisitionEnd_nacked fun y hy => owned ⟨y, hy⟩, State.seg_modPort]

theorem State.markOf_markMember_ne {s : State} {p : Port} {x y : Seg} {m : Mark} (hm : m ≠ .pending)
    (h : s.markOf p x ≠ some .pending ∨ x = y) : (s.markMember p y m).markOf p x ≠ some .pending := by
  rw [State.markOf_markMember]
  by_cases e : x = y
  · rw [if_pos e]
    cases s.markOf p x <;> simp [hm]
  · rw [if_neg e]
    exact h.resolve_right e

theorem State.markOf_dropMember (s : State) (p : Port) (y : Seg) (why : RefusalReason) (x : Seg) :
    (s.dropMember p y why).markOf p x = (s.markMember p y .dropped).markOf p x := by
  simp [State.markOf, State.dropMember]

/-- A segment that the port's set does not hold PENDING is not touched by its acquisition. -/
theorem State.acquire_seg {p : Port} {x : Seg} (sgs : List Seg) {s : State} (h : s.markOf p x ≠ some .pending) :
    (State.acquire p sgs s).seg x = s.seg x := by
  induction sgs generalizing s with
  | nil => exact State.acquisitionEnd_seg s p x
  | cons y rest ih =>
    unfold State.acquire
    split
    · rename_i pending
      have other : x ≠ y := fun e => h (by rw [e]; simpa using pending)
      split
      · exact (ih (by rw [State.markOf_dropMember]; exact State.markOf_markMember_ne nofun (.inl h))).trans rfl
      · exact (ih (s := (s.setOwner p y .generalCall).markMember p y .owned)
          (State.markOf_markMember_ne nofun (.inl h))).trans (State.seg_modSeg_ne s y _ other)
      · exact State.seg_modSeg_ne s y _ other
    · exact ih h

/-- R115: a claim refused on a segment never comes back to it. -/
theorem State.refuseClaim_seg (why : RefusalReason) (sg : Seg) (s : State) (c : Claim) :
    (State.refuseClaim why sg s c).seg sg = s.seg sg := by
  unfold State.refuseClaim
  split
  · rfl
  · unfold State.acquireNext
    split
    · refine (State.acquire_seg Seg.all ?_).trans rfl
      rw [State.markOf_dropMember]
      exact State.markOf_markMember_ne nofun (.inr rfl)
    · rfl

theorem State.dropIfPending_seg (why : RefusalReason) (sg : Seg) (s : State) (p : Port) :
    (State.dropIfPending why sg s p).seg sg = s.seg sg := by
  unfold State.dropIfPending
  split <;> rfl

theorem State.turnAway_seg (s : State) (why : RefusalReason) (sg : Seg) (claims : List Claim) (ports : List Port) :
    (s.turnAway why sg claims ports).seg sg = s.seg sg := by
  unfold State.turnAway
  have claimsKept : (claims.foldl (State.refuseClaim why sg) s).seg sg = s.seg sg := by
    induction claims generalizing s with
    | nil => rfl
    | cons c rest ih => exact (ih _).trans (State.refuseClaim_seg why sg s c)
  rw [← claimsKept]
  generalize claims.foldl (State.refuseClaim why sg) s = t
  clear claimsKept
  induction ports generalizing t with
  | nil => rfl
  | cons p rest ih => exact (ih _).trans (State.dropIfPending_seg why sg t p)

/-- R17, R31: the claims that a granted lease covers. -/
def Lease.claims (l : Lease) (waiting : List Claim) : List Claim :=
  waiting.filter fun c => c.port != l.holder && l.covers l.seg c.dest

theorem State.leaseHandOver_eq (s : State) (l : Lease) :
    s.leaseHandOver l = (s.modSeg l.seg fun r =>
      { r with waitList := r.waitList.filter fun c => !(c.port != l.holder && l.covers l.seg c.dest) }).turnAway
        (.reservedElsewhere l.id) l.seg (l.claims (s.seg l.seg).waitList) (Port.all.filter fun p => p != l.holder) := rfl

theorem Lease.filter_claims (l : Lease) (waiting : List Claim) (q : Port) :
    ((l.claims waiting).filter fun c => c.port == q) =
      (waiting.filter fun c => c.port == q).filter fun c => c.port != l.holder && l.covers l.seg c.dest := by
  simp only [Lease.claims, List.filter_filter, Bool.and_comm]

theorem Lease.covers_device (id : Byte) (p : Port) (sg : Seg) (target : Option Addr) (d : Word16) (due : Bool) (a : Addr) :
    (Lease.mk id p sg target d due).covers sg (.device a) = (target.isNone || target == some a) := by
  cases target <;> simp [Lease.covers]

theorem Lease.covers_generalCall (l : Lease) : l.covers l.seg .generalCall = true := by
  simp [Lease.covers]

theorem State.leaseHandOver_seg (s : State) (l : Lease) :
    (s.leaseHandOver l).seg l.seg = { s.seg l.seg with
      waitList := (s.seg l.seg).waitList.filter fun c => !(c.port != l.holder && l.covers l.seg c.dest) } := by
  rw [State.leaseHandOver_eq, State.turnAway_seg, State.seg_modSeg_same]

/-- R17, R117: every other port is turned away by a lease handed over. -/
theorem State.leaseHandOver_turnedAway (s : State) (l : Lease) {q : Port} (other : q ≠ l.holder) :
    s.turnedAway (s.leaseHandOver l) l.seg q (fun a => l.covers l.seg (.device a)) fun v =>
      refusalRecord (.reservedElsewhere l.id) v (some l.seg) := by
  rw [State.leaseHandOver_eq]
  refine State.turnAway_turnedAway (s0 := s) (s := s.modSeg l.seg fun r =>
      { r with waitList := r.waitList.filter fun c => !(c.port != l.holder && l.covers l.seg c.dest) })
    (covered := fun a => l.covers l.seg (.device a)) ⟨rfl, rfl⟩ (Port.filter_others other) (fun a cov only => ?_) (fun only => ?_) fun only => ?_
  · rw [Lease.filter_claims, only, List.filter_cons_of_pos (by simp [other, cov]), List.filter_nil]
  · rw [Lease.filter_claims, only, List.filter_nil]
  · rw [Lease.filter_claims, only, List.filter_cons_of_pos (by simp [other, Lease.covers_generalCall]), List.filter_nil]

/-- R17: a SINGLE claim for another target stays. -/
theorem State.leaseHandOver_spares (s : State) (l : Lease) {q : Port} (other : q ≠ l.holder) {a : Addr}
    (uncov : l.covers l.seg (.device a) = false)
    (only : ((s.seg l.seg).waitList.filter fun c => c.port == q) = [⟨q, .device a⟩]) (noSet : (s.port q).bset = none) :
    SameFor q s (s.leaseHandOver l) := by
  rw [State.leaseHandOver_eq]
  refine SameFor.trans (t := s.modSeg l.seg _) ⟨rfl, rfl⟩
    (State.turnAway_spares ?_ (by simp [State.markOf, noSet]) (Port.filter_others other))
  rw [Lease.filter_claims, only, List.filter_cons_of_neg (by simp [uncov]), List.filter_nil]

/-- R17, R31: the one claim that waits is for another target. -/
theorem State.leaseHandOver_uncovered {s : State} {l : Lease} {q : Port} {a : Addr}
    (uncov : l.covers l.seg (.device a) = false) (list : (s.seg l.seg).waitList = [⟨q, .device a⟩])
    (sets : ∀ x, s.markOf x l.seg ≠ some .pending) : s.leaseHandOver l = s := by
  have none : l.claims (s.seg l.seg).waitList = [] := by
    rw [Lease.claims, list, List.filter_cons_of_neg (by simp [uncov]), List.filter_nil]
  have kept : s.modSeg l.seg (fun r =>
      { r with waitList := r.waitList.filter fun c => !(c.port != l.holder && l.covers l.seg c.dest) }) = s := by
    refine State.modSeg_self s l.seg _ ?_
    rw [list, List.filter_cons_of_pos (by simp [uncov]), List.filter_nil, ← list]
  rw [State.leaseHandOver_eq, none, kept]
  exact State.foldl_dropIfPending_none _ sets _

/-- R17, R31: the one claim that waits is covered. -/
theorem State.leaseHandOver_covered {s : State} {l : Lease} {q : Port} {a : Addr} {r : Route} (other : q ≠ l.holder)
    (cov : l.covers l.seg (.device a) = true) (list : (s.seg l.seg).waitList = [⟨q, .device a⟩])
    (route : (s.port q).route = some r) (sets : ∀ x, s.markOf x l.seg ≠ some .pending) :
    s.leaseHandOver l = ((s.modSeg l.seg fun x => { x with waitList := [] }).modPort q PortCtx.claimRefused).writeRecord q
      ⟨.reservedElsewhere, some r.visible, some l.seg, none, some l.id, .zero⟩ := by
  have taken : l.claims (s.seg l.seg).waitList = [⟨q, .device a⟩] := by
    rw [Lease.claims, list, List.filter_cons_of_pos (by simp [cov, other]), List.filter_nil]
  have emptied : s.modSeg l.seg (fun r =>
      { r with waitList := r.waitList.filter fun c => !(c.port != l.holder && l.covers l.seg c.dest) }) =
      s.modSeg l.seg fun x => { x with waitList := [] } := by
    refine State.modSeg_congr s l.seg _ _ ?_
    rw [list, List.filter_cons_of_neg (by simp [cov, other]), List.filter_nil]
  have refused : State.refuseClaim (.reservedElsewhere l.id) l.seg (s.modSeg l.seg fun x => { x with waitList := [] })
      ⟨q, .device a⟩ = ((s.modSeg l.seg fun x => { x with waitList := [] }).modPort q PortCtx.claimRefused).writeRecord q
        ⟨.reservedElsewhere, some r.visible, some l.seg, none, some l.id, .zero⟩ := by
    have visible : (s.port q).route.map (·.visible) = some r.visible := by rw [route]; rfl
    exact congrArg (fun v => State.refuse _ q (refusalRecord (.reservedElsewhere l.id) v (some l.seg))) visible
  rw [State.leaseHandOver_eq, taken, emptied, State.turnAway, List.foldl_cons, List.foldl_nil, refused]
  refine State.foldl_dropIfPending_none _ (fun x => ?_) _
  by_cases e : x = q
  · subst e
    simp [State.markOf, PortCtx.claimRefused]
  · have same := sets x
    rw [State.markOf] at same ⊢
    rw [State.port_writeRecord, State.port_modPort_ne _ _ _ e]
    exact same

/-- R25, R31: a granted lease is entered with the first id and handed over before the reply is written. -/
theorem exec_reserve_granted {s : State} {p : Port} {sg : Seg} {target : Option Addr} {d : Word16} (low : List Seg)
    (asked : s.asked p 0x20 ([segCode sg, (target.map addrCode).getD 0] ++ wordBytes d))
    (device : ∀ a ∈ target, deviceAddress a) (h1 : 1 ≤ d.toNat) (h2 : d.toNat ≤ 60000)
    (free : (s.port p).quarantined = false)
    (apart : ∀ l ∈ s.leases, l.overlaps sg target = false ∧ l.id ≠ s.nextLeaseId) (room : s.leases.length < 8)
    (held : (s.leasesHeld p).length < 4) :
    exec (.reserve p low) s = .next (((({ s.sampleLines low with
      leases := insertLease ⟨s.nextLeaseId, p, sg, target, d, false⟩ s.leases
      nextLeaseId := idAfter s.nextLeaseId } : State).leaseHandOver ⟨s.nextLeaseId, p, sg, target, d, false⟩)).answered p .ok
        [s.nextLeaseId]) := by
  have found : (s.sampleLines low).newLease p sg target d = ⟨s.nextLeaseId, p, sg, target, d, false⟩ := by
    rw [State.newLease]
    exact congrArg (Lease.mk · p sg target d false) (freeLeaseId_eq_iterate (k := 0) (fun j hj => absurd hj (by omega))
      (fun l hl => (apart l hl).2) (by omega))
  refine congrArg Host.Outcome.next (State.takeCommand_answered ((s.asked_sampleLines low p _ _).mpr asked) rfl rfl nofun
    (fun _ => free) ((reserveBody_of_args p sg device h1 h2 _).trans ?_) ?_)
  · rw [State.reserve_granted (s := s.sampleLines low) d (fun l hl => (apart l hl).1) room held, found, State.grantLease]
    rfl
  · rw [State.leaseHandOver_eq]
    exact State.turnAway_held _ _ _ _ _ asked.2

/-- Settles O44: the lease handed over turns the others away, and nothing on the segment itself moves but its list. -/
theorem grantedLeaseRefusesTheWaitingClaim : Obligations.GrantedLeaseRefusesTheWaitingClaim := by
  intro s p low sg target d asked device h1 h2 free apart room held covered leased
  have granted := exec_reserve_granted low asked device h1 h2 free apart room held
  have covers : ∀ a, Lease.covers ⟨s.nextLeaseId, p, sg, target, d, false⟩ sg (.device a) = covered a :=
    Lease.covers_device s.nextLeaseId p sg target d false
  rw [granted]
  constructor
  · intro q a r other list route sets noSet
    exact ⟨fun cov => congrArg (fun t : State => Host.Outcome.next (t.answered p .ok [s.nextLeaseId]))
        (State.leaseHandOver_covered (s := leased) other ((covers a).trans cov) list route sets),
      fun uncov => congrArg (fun t : State => Host.Outcome.next (t.answered p .ok [s.nextLeaseId]))
        (State.leaseHandOver_uncovered (s := leased) ((covers a).trans uncov) list sets)⟩
  · have seg := State.leaseHandOver_seg leased ⟨s.nextLeaseId, p, sg, target, d, false⟩
    have answered : ∀ {q : Port}, q ≠ p → ∀ t : State, SameFor q t (t.answered p .ok [s.nextLeaseId]) := fun other t =>
      ⟨State.port_modPort_ne t p _ other, rfl⟩
    have owner := congrArg SegRecord.owner seg
    refine ⟨_, rfl, owner, (congrArg SegRecord.waitList seg).trans ?_, fun q other =>
      ⟨?_, fun a uncov only noSet => ?_⟩⟩
    · refine congrArg (List.filter · (s.seg sg).waitList) (funext fun c => ?_)
      obtain ⟨q, dest⟩ := c
      cases dest with
      | device a => simp [covers, Bool.not_and, bne]
      | generalCall => simp [Lease.covers, bne]
    · have turned := State.leaseHandOver_turnedAway leased ⟨s.nextLeaseId, p, sg, target, d, false⟩ other
      simp only [covers] at turned
      exact turned.congr ⟨rfl, rfl⟩ rfl (answered other _)
    · have spared := (State.leaseHandOver_spares leased ⟨s.nextLeaseId, p, sg, target, d, false⟩ other
        ((covers a).trans uncov) only noSet).trans (answered other _)
      exact ⟨spared.port, spared.log⟩

end Sys2Proof.Machine
end

section
/-! Stuck detection while others wait for the segment (R12, R13, R51, R87 to R89, R116). -/

namespace Sys2Proof.Machine

/-- R9, R82: a segment out of use is released without a grant. -/
theorem State.releaseSeg_outOfUse {s : State} {sg : Seg} {o : Owner} (owner : (s.seg sg).owner = some o)
    (away : s.condition sg ≠ .available) (cause : Option AbortCause) :
    s.releaseSeg sg cause =
      (((s.modSgc sg Sgc.released).takeCause o.port sg cause).disowned sg).portReleased o.port := by
  have cond : (((s.modSgc sg Sgc.released).takeCause o.port sg cause).disowned sg).condition sg = s.condition sg :=
    ((State.takeCause_moved _ o.port sg cause).condition sg).trans (State.condition_modSgc_same s sg _)
  unfold State.releaseSeg
  rw [owner]
  refine congrArg (State.portReleased · o.port) (if_neg ?_)
  rw [beq_iff_eq]
  exact fun h => away (cond.symm.trans h)

/-- R88, R89: what is left of a segment whose stuck line has been detected, and of those that waited for it. -/
theorem State.stuckDetected_flushes {s : State} {sg : Seg} {o : Owner} (owner : (s.seg sg).owner = some o) (line : BusLine) :
    ((s.stuckDetected sg line).seg sg).owner = none ∧ ((s.stuckDetected sg line).seg sg).waitList = [] ∧
      ((s.stuckDetected sg line).sgc sg).line = .recovery ∧
      ((s.stuckDetected sg line).sgc sg).origin = some (.automatic o.port) ∧
      ∀ q, q ≠ o.port → s.turnedAway (s.stuckDetected sg line) sg q (fun _ => true) fun v =>
        ⟨.segmentUnavailable, v, some sg, none, none, .zero⟩ := by
  obtain ⟨s1, cause, handed, segs, eq⟩ : ∃ s1 cause, ActsFor o.port s s1 ∧ s1.segs = s.segs ∧
      s.stuckDetected sg line =
        (((s1.modSgc sg (Sgc.intoRecovery o.port)).conditionLeft sg).releaseSeg sg cause).collect o.port := by
    unfold State.stuckDetected
    rw [owner]
    cases (s.sgc sg).closing with
    | true => exact ⟨s, _, .refl _ s, rfl, rfl⟩
    | false => exact ⟨_, _, State.handAbort_actsFor s o sg (.stuck line), State.segs_handAbort s o sg _, rfl⟩
  have away : (s1.modSgc sg (Sgc.intoRecovery o.port)).condition sg ≠ .available := by
    rw [State.condition_modSgc_same]
    exact nofun
  obtain ⟨flushedOwner, flushedList, flushedCond, _⟩ := State.conditionLeft_flushed away
  have flushedSgc := State.conditionLeft_sgc _ sg away
  have turned := State.conditionLeft_turnedAway (s1.modSgc sg (Sgc.intoRecovery o.port)) sg
  generalize (s1.modSgc sg (Sgc.intoRecovery o.port)).conditionLeft sg = flushed at *
  have owned : (flushed.seg sg).owner = some o := by
    rw [flushedOwner, State.seg_modSgc, State.seg, segs]
    exact owner
  have gone : flushed.condition sg ≠ .available := by rw [flushedCond]; exact away
  rw [State.releaseSeg_outOfUse owned gone] at eq
  have causeMoved := State.takeCause_moved (flushed.modSgc sg Sgc.released) o.port sg cause
  have causeActs := State.takeCause_actsFor (flushed.modSgc sg Sgc.released) o.port sg cause
  generalize (flushed.modSgc sg Sgc.released).takeCause o.port sg cause = caused at *
  have causeAway : (flushed.modSgc sg Sgc.released).condition sg ≠ .available := by
    rw [State.condition_modSgc_same]
    exact gone
  have leftAway : (caused.disowned sg).condition sg ≠ .available := by
    have := causeMoved.condition sg
    exact this ▸ causeAway
  have moved := (State.portReleased_moved (caused.disowned sg) o.port).trans (State.collect_moved _ o.port)
  have acts := (State.portReleased_actsFor (caused.disowned sg) o.port).trans (State.collect_actsFor _ o.port)
  rw [← eq] at moved acts
  have seg : (s.stuckDetected sg line).seg sg = ⟨none, []⟩ := by
    rw [moved.unavailable sg leftAway, State.disowned, State.seg_modSeg_same, causeMoved.unavailable sg causeAway,
      State.seg_modSgc, flushedList]
  have sgc : (s.stuckDetected sg line).sgc sg = ((s1.sgc sg).intoRecovery o.port).released := by
    rw [acts.sgc sg leftAway, State.disowned, State.sgc_modSeg, causeActs.sgc sg causeAway, State.sgc_modSgc_same,
      flushedSgc, State.sgc_modSgc_same]
  refine ⟨congrArg SegRecord.owner seg, congrArg SegRecord.waitList seg, congrArg Sgc.line sgc, congrArg Sgc.origin sgc,
    fun q other => ?_⟩
  have before := handed.same other
  have released : SameFor q flushed (flushed.modSgc sg Sgc.released) := ⟨rfl, rfl⟩
  have disowned : SameFor q caused (caused.disowned sg) := ⟨rfl, rfl⟩
  have after := ((released.trans (causeActs.same other)).trans disowned).trans (acts.same other)
  refine (turned q).congr ⟨before.port.symm, before.log.symm⟩ ?_ after
  rw [State.seg_modSgc, State.seg, State.seg, segs]

/-- Settles O26: the detection is for the owner alone, the flush for the others. -/
theorem stuckDetectionFlushesTheWaitList : Obligations.StuckDetectionFlushesTheWaitList := by
  intro s sg low o owner recovering
  have flushes : ∀ line, recovering ((s.sampleLines low).stuckDetected sg line) := fun line => by
    obtain ⟨unowned, list, state, origin, others⟩ := State.stuckDetected_flushes (s := s.sampleLines low) owner line
    exact ⟨unowned, list, state, origin, fun q other => (others q other).congr ⟨rfl, rfl⟩ rfl ⟨rfl, rfl⟩⟩
  exact ⟨fun applies => ⟨_, congrArg Host.Outcome.next (State.stuck_scl (s := s.sampleLines low) applies), flushes .scl⟩,
    fun applies => ⟨_, congrArg Host.Outcome.next (State.stuck_sda (s := s.sampleLines low) applies), flushes .sda⟩⟩

end Sys2Proof.Machine
end

section
/-! The release of a segment that others wait for: the head claim of its list is granted (R7, R10, R11, R50, R51, R114,
R115, R118, R119). -/

namespace Sys2Proof.Machine

/-! ### What a port owns -/

theorem State.ownedBy_congr {s t : State} (h : ∀ x, (t.seg x).owner = (s.seg x).owner) (p : Port) :
    t.ownedBy p = s.ownedBy p := by
  unfold State.ownedBy
  refine congrArg (List.filter · Seg.all) (funext fun x => ?_)
  rw [State.owns, State.owns, h]

/-- The one segment of a port passes to another port. -/
theorem State.ownedBy_passed {s : State} {p q : Port} {sg : Seg} (alone : s.ownedBy p = [sg]) (other : q ≠ p)
    (k : OwnerKind) (rest : List Claim) : (s.modSeg sg fun _ => ⟨some ⟨q, k⟩, rest⟩).ownedBy p = [] := by
  refine List.eq_nil_iff_forall_not_mem.mpr fun x hx => ?_
  rw [State.mem_ownedBy] at hx
  by_cases e : x = sg
  · subst e
    simp [State.owns, other] at hx
  · have owned : s.owns p x = true := by
      rw [State.owns, State.seg_modSeg_ne _ _ _ e] at hx
      exact hx
    have := State.mem_ownedBy.mpr owned
    rw [alone, List.mem_singleton] at this
    exact e this

/-- R44: END or ABORT is acted on at once by a port that owns nothing and holds no quarantine entry. -/
theorem State.portReleased_ending {s : State} {p : Port} {e : Ending} (release : (s.port p).release = some (.ending e))
    (unowned : s.ownedBy p = []) (held : (s.port p).quarantineHeld = false) :
    s.portReleased p = s.modPort p (PortCtx.acted e) :=
  (State.closeAll_none unowned).symm.trans (State.closeAll_released release unowned held)

theorem PortCtx.acted_stop (c : PortCtx) : c.acted .stop = c.endedClean .idle := by
  cases reported : c.abortReported <;>
    simp [PortCtx.acted, PortCtx.finished, PortCtx.ended, PortCtx.endedClean, endedByStop, Ending.phaseAfter, reported]

/-! ### The head claim (R10, R11) -/

/-- What a grant does for the claimant, its segment record written (R50, R51, R115). -/
def State.answerClaim (s : State) (sg : Seg) (c : Claim) : State :=
  match c.dest with
  | .device _ => s.openSingle c.port
  | .generalCall => (s.markMember c.port sg .owned).acquireNext c.port

/-- R9 to R11: the release of a segment with a claim at the head of its list. -/
theorem State.releaseSeg_head {s : State} {p : Port} {k : OwnerKind} {sg : Seg} {c : Claim} {rest : List Claim}
    (owner : (s.seg sg).owner = some ⟨p, k⟩) (list : (s.seg sg).waitList = c :: rest)
    (cond : s.condition sg = .available) :
    s.releaseSeg sg none =
      (((s.modSgc sg Sgc.released).modSeg sg fun _ => ⟨some ⟨c.port, c.dest.kind⟩, rest⟩).answerClaim sg c).portReleased p := by
  have released : (((s.modSgc sg Sgc.released).disowned sg).condition sg == .available) = true := by
    rw [beq_iff_eq]
    exact (State.condition_modSgc_same s sg _).trans cond
  have head : (((s.modSgc sg Sgc.released).disowned sg).seg sg).waitList = c :: rest := by
    rw [State.disowned, State.seg_modSeg_same, State.seg_modSgc, list]
  have written : ((((s.modSgc sg Sgc.released).disowned sg).modSeg sg fun r => { r with waitList := rest }).setOwner c.port sg
      c.dest) = (s.modSgc sg Sgc.released).modSeg sg fun _ => ⟨some ⟨c.port, c.dest.kind⟩, rest⟩ := by
    rw [State.disowned, State.setOwner, State.modSeg_modSeg, State.modSeg_modSeg]
  have granted : ((s.modSgc sg Sgc.released).disowned sg).grantHead sg =
      ((s.modSgc sg Sgc.released).modSeg sg fun _ => ⟨some ⟨c.port, c.dest.kind⟩, rest⟩).answerClaim sg c := by
    rw [← written]
    unfold State.grantHead
    rw [head]
    rfl
  unfold State.releaseSeg
  rw [owner]
  exact congrArg (State.portReleased · p) ((if_pos released).trans granted)

theorem State.answerClaim_actsFor (s : State) (sg : Seg) (c : Claim) : ActsFor c.port s (s.answerClaim sg c) := by
  unfold State.answerClaim
  split
  · exact State.openSingle_actsFor s c.port
  · exact (State.markMember_actsFor s c.port sg .owned).trans (State.acquireNext_actsFor _ c.port)

/-- R10, R44, R68: the STOP of an END ended by a STOP is done while another port's claim heads the list. -/
theorem exec_stopDone_head {s : State} {p : Port} {sg : Seg} {low : List Seg} {c : Claim} {rest : List Claim}
    (single : s.single p sg) (line : (s.sgc sg).line = .stopping) (held : (s.port p).quarantineHeld = false)
    (release : (s.port p).release = some (.ending .stop)) (other : c.port ≠ p)
    (list : (s.seg sg).waitList = c :: rest) {t : State}
    (answered : (((s.sampleLines low).modSgc sg fun c => c.left .idle c.busBusy).modSeg sg fun _ =>
      ⟨some ⟨c.port, c.dest.kind⟩, rest⟩).answerClaim sg c = t)
    (owners : ∀ x, (t.seg x).owner = ((s.modSeg sg fun _ => ⟨some ⟨c.port, c.dest.kind⟩, rest⟩).seg x).owner) :
    exec (.stopDone sg low) s = .next (t.modPort p (PortCtx.endedClean .idle)) := by
  let stopped := (s.sampleLines low).modSgc sg fun c => { c with line := .idle }
  have cond : stopped.condition sg = .available := State.condition_modSgc_same _ sg _
  have released : stopped.releaseSeg sg none = t.portReleased p := by
    rw [State.releaseSeg_head (s := stopped) single.owner list cond, State.modSgc_modSgc]
    exact congrArg (State.portReleased · p) answered
  have port : t.port p = s.port p := by
    rw [← answered, (State.answerClaim_actsFor _ sg c).port p other.symm]
    rfl
  have unowned : t.ownedBy p = [] :=
    (State.ownedBy_congr owners p).trans (State.ownedBy_passed single.alone other c.dest.kind rest)
  rw [exec_stopDone line]
  refine congrArg Host.Outcome.next (released.trans ?_)
  rw [State.portReleased_ending (by rw [port]; exact release) unowned (by rw [port]; exact held)]
  exact State.modPort_congr t p _ _ (PortCtx.acted_stop _)

/-- R50: the START of a granted SINGLE claim on a free bus. -/
theorem State.answerClaim_device {s : State} {sg : Seg} {q : Port} {a : Addr} {r : Route} (route : (s.port q).route = some r)
    (free : (s.port q).withdrawal = none) :
    s.answerClaim sg ⟨q, .device a⟩ =
      (s.modPort q fun c => { c with phase := .opening }).beginOn r.seg (.device r.downstream) r.dir :=
  State.openSingle_route free route

/-- A broadcast set with one member OWNED (R113). -/
def ownedIn (set : List Member) (sg : Seg) : List Member := set.map fun m => if m.seg = sg then { m with mark := .owned } else m

theorem setMark_owned (set : List Member) (sg : Seg) : setMark set sg .owned = ownedIn set sg := by
  simp only [setMark, ownedIn, beq_iff_eq]

theorem markIn_ownedIn {set : List Member} {sg : Seg} {m : Mark} (h : markIn set sg = some m) (x : Seg) :
    markIn (ownedIn set sg) x = if x = sg then some .owned else markIn set x := by
  rw [← setMark_owned, markIn_setMark]
  by_cases e : x = sg
  · rw [if_pos e, if_pos e, e, h]
    rfl
  · rw [if_neg e, if_neg e]

/-- R113, R115: a broadcast's claim granted, before its next claim. -/
theorem State.answerClaim_generalCall {s : State} {sg : Seg} {q : Port} {set : List Member}
    (hset : (s.port q).bset = some set) :
    s.answerClaim sg ⟨q, .generalCall⟩ =
      (s.modPort q fun c => { c with bset := some (ownedIn set sg) }).acquireNext q := by
  have marked : s.markMember q sg .owned = s.modPort q fun c => { c with bset := some (ownedIn set sg) } :=
    State.modPort_congr s q _ _ (by rw [hset]; simp [setMark_owned])
  exact congrArg (State.acquireNext · q) marked

/-- R115: members that are not PENDING are passed over. -/
theorem State.acquire_skip {s : State} {p : Port} (rest : List Seg) {pre : List Seg}
    (h : ∀ x ∈ pre, s.markOf p x ≠ some .pending) : State.acquire p (pre ++ rest) s = State.acquire p rest s := by
  induction pre with
  | nil => rfl
  | cons x pre ih =>
    rw [List.cons_append, State.acquire, if_neg (by simpa using h x List.mem_cons_self)]
    exact ih fun y hy => h y (List.mem_cons_of_mem _ hy)

theorem State.owner_enqueueClaim (s : State) (p : Port) (w : Seg) (d : Dest) (x : Seg) :
    ((s.enqueueClaim p w d).seg x).owner = (s.seg x).owner := by
  by_cases e : x = w
  · subst e
    rw [State.enqueueClaim, State.seg_modSeg_same]
  · rw [State.enqueueClaim, State.seg_modSeg_ne _ _ _ e]

/-- R7, R115: the first PENDING segment of a set is owned, and is waited for. -/
theorem State.acquire_queues {s : State} {p : Port} {w : Seg} (pending : s.markOf p w = some .pending)
    (first : ∀ x, (segCode x).toNat < (segCode w).toNat → s.markOf p x ≠ some .pending)
    (queued : s.arrival p w .generalCall = .queued) :
    State.acquire p Seg.all s = s.enqueueClaim p w .generalCall := by
  obtain ⟨pre, rest, split, _, hpre⟩ := Seg.all_split w
  rw [split, State.acquire_skip (w :: rest) fun x hx => first x ((hpre x).mp hx), State.acquire, pending, if_pos (by decide),
    queued]

theorem State.acquireNext_free {s : State} {p : Port} (h : (s.port p).withdrawal = none) :
    s.acquireNext p = State.acquire p Seg.all s := by
  unfold State.acquireNext
  rw [h]

/-- Settles O33: the claimant's part is what its claim asks for on the segment just freed, and the other port's end does
not meet it. -/
theorem releaseGrantsTheHeadClaim : Obligations.ReleaseGrantsTheHeadClaim := by
  intro s p q sg low rest single line held release other freed
  have base : ∀ (kind : OwnerKind) (f : PortCtx → PortCtx),
      ((((s.sampleLines low).modSgc sg fun c => c.left .idle c.busBusy).modSeg sg fun _ => ⟨some ⟨q, kind⟩, rest⟩).modPort q
        f).modPort p (PortCtx.endedClean .idle) =
        (freed.modPort q f).modSeg sg fun _ => ⟨some ⟨q, kind⟩, rest⟩ := fun kind f =>
    State.modPort_comm _ f (PortCtx.endedClean .idle) other.symm
  let passed := fun kind : OwnerKind =>
    ((s.sampleLines low).modSgc sg fun c => c.left .idle c.busBusy).modSeg sg fun _ => ⟨some ⟨q, kind⟩, rest⟩
  have freeLine : ∀ kind, ((passed kind).sgc sg).line = .idle := fun kind =>
    congrArg Sgc.line (State.sgc_modSgc_same (s.sampleLines low) sg fun c => c.left .idle c.busBusy)
  constructor
  · intro a r list route on granted
    have ended := fun {t : State} => exec_stopDone_head (low := low) (t := t) single line held release
      (c := ⟨q, .device a⟩) other list
    constructor
    · intro free lines
      have begun : (passed .single).answerClaim sg ⟨q, .device a⟩ =
          ((passed .single).modPort q fun c => { c with phase := .opening }).modSgc sg
            fun c => c.started (.device r.downstream) r.dir := by
        rw [State.answerClaim_device (s := passed .single) route free, State.beginOn, on]
        have low' : ((passed .single).modPort q fun c => { c with phase := .opening }).linesLow.get sg = false :=
          (State.linesLow_sampleLines s low sg).trans (by simpa using lines)
        rw [low']
        exact State.modSgc_congr _ sg _ _ (Sgc.beginAddress_idle (freeLine .single) _ r.dir)
      exact (ended begun fun x => rfl).trans (congrArg
        (fun t : State => Host.Outcome.next (t.modSgc sg fun c => c.started (.device r.downstream) r.dir)) (base .single _))
    · intro sent
      have waits : (passed .single).answerClaim sg ⟨q, .device a⟩ =
          (passed .single).modPort q fun c => { c with phase := .opening } :=
        State.openSingle_withdrawn (passed .single) q sent
      exact (ended waits fun x => rfl).trans (congrArg Host.Outcome.next (base .single _))
  · intro set list hset mark marked granted
    have ended := fun {t : State} => exec_stopDone_head (low := low) (t := t) single line held release
      (c := ⟨q, .generalCall⟩) other list
    let taken := (passed .broadcast).modPort q fun c => { c with bset := some marked }
    have answered : (passed .broadcast).answerClaim sg ⟨q, .generalCall⟩ = taken.acquireNext q :=
      State.answerClaim_generalCall (s := passed .broadcast) hset
    have takenPort : taken.port q = { s.port q with bset := some marked } := State.port_modPort_same (passed .broadcast) q _
    have marks : ∀ x, taken.markOf q x = if x = sg then some .owned else markIn set x := fun x =>
      (State.markOf_of_set (congrArg PortCtx.bset takenPort) x).trans (markIn_ownedIn mark x)
    refine ⟨fun sent => ?_, fun free => ⟨fun last lines => ?_, fun w o away pending first owned cond leases => ?_⟩⟩
    · have waits : taken.acquireNext q = taken := State.acquireNext_withdrawn taken q (by rw [takenPort]; exact sent)
      exact (ended (answered.trans waits) fun x => rfl).trans (congrArg Host.Outcome.next (base .broadcast _))
    · have settled : taken.acquireNext q = taken.acquisitionEnd q := by
        rw [State.acquireNext_free (by rw [takenPort]; exact free)]
        refine State.acquire_settled (fun x => ?_) _
        rw [marks]
        by_cases e : x = sg
        · rw [if_pos e]; nofun
        · rw [if_neg e]; exact last x e
      have begun := settled.trans (State.acquisitionEnd_begins ((marks sg).trans (if_pos rfl)))
      have ports : ((taken.modPort q fun c => { c with phase := .opening }).modPort p (PortCtx.endedClean .idle)) =
          granted.modPort q fun c => { c with phase := .opening } :=
        (State.modPort_comm taken (fun c => { c with phase := .opening }) (PortCtx.endedClean .idle) other.symm).trans
          (congrArg (fun t : State => t.modPort q fun c => { c with phase := .opening }) (base .broadcast _))
      have calls : (taken.sgcs.mapAll fun x c =>
          if taken.markOf q x = some .owned then c.beginAddress (taken.linesLow.get x) .generalCall .write else c) =
          granted.sgcs.mapAll fun x c => if markIn marked x = some .owned then c.called (low.contains x) else c := by
        refine PerSeg.mapAll_congr (v := taken.sgcs) fun x => ?_
        have mark' : markIn marked x = if x = sg then some .owned else markIn set x := markIn_ownedIn mark x
        rw [marks, ← mark']
        by_cases owned : markIn marked x = some .owned
        · have state : (taken.sgc x).line = .idle ∨ (taken.sgc x).line = .foreign := by
            by_cases e : x = sg
            · rw [e]; exact .inl (freeLine .broadcast)
            · have same : taken.sgc x = s.sgc x := State.sgc_modSgc_ne (s.sampleLines low) sg _ e
              rw [same]
              exact lines x ((mark'.trans (if_neg e)).symm.trans owned)
          have lows : taken.linesLow.get x = low.contains x := State.linesLow_sampleLines s low x
          rw [if_pos owned, if_pos owned, lows]
          exact Sgc.beginAddress_called state _
        · rw [if_neg owned, if_neg owned]
      refine (ended (answered.trans begun) fun x => rfl).trans ?_
      exact congrArg₂ (fun (t : State) v => Host.Outcome.next { t with sgcs := v }) ports calls
    · have queued : taken.arrival q w .generalCall = .queued := by
        refine State.arrival_eq_queued (o := o) ?_ ?_ ?_
        · rw [State.coveringLease_generalCall]
          refine List.find?_eq_none.mpr fun l hl => ?_
          have := leases l hl
          simp only [Bool.and_eq_true, beq_iff_eq, bne_iff_ne, not_and, not_not]
          exact this
        · exact (State.condition_modSgc_ne (s.sampleLines low) _ away).trans cond
        · exact (congrArg SegRecord.owner (State.seg_modSeg_ne ((s.sampleLines low).modSgc sg _) sg _ away)).trans owned
      have waits : taken.acquireNext q = taken.enqueueClaim q w .generalCall := by
        rw [State.acquireNext_free (by rw [takenPort]; exact free)]
        refine State.acquire_queues ((marks w).trans ((if_neg away).trans pending)) (fun x lt => ?_) queued
        rw [marks]
        by_cases e : x = sg
        · rw [if_pos e]; nofun
        · rw [if_neg e]; exact first x e lt
      refine (ended (answered.trans waits) fun x => State.owner_enqueueClaim taken q w _ x).trans ?_
      exact congrArg (fun t : State => Host.Outcome.next
        (t.modSeg w fun r => { r with waitList := r.waitList ++ [⟨q, .generalCall⟩] })) (base .broadcast _)

end Sys2Proof.Machine
end

section
/-! A hold expiry (R15, R16, R51, R54, R82, R118, R121): the claim is withdrawn, or the address is NACKed and each segment
closed by its line state. -/

namespace Sys2Proof.Machine

/-! ### The close of everything a port owns (Table 4-4) -/

/-- The line states in which a close is a release at once. -/
def LineState.frees : LineState → Bool
  | .idle | .foreign | .busWait => true
  | .address | .write | .read | .ackHold | .parked | .stopping | .recovery | .faulted => false

/-- What a close leaves of a segment controller. -/
def Sgc.closed (c : Sgc) : Sgc :=
  match c.line with
  | .idle | .foreign => c.left c.line c.busBusy
  | .busWait => c.left (if c.busBusy then .foreign else .idle) c.busBusy
  | .address | .write | .read => { c with closing := true }
  | .ackHold => { c with line := .stopping, closing := true, nackOut := true }
  | .parked => c.stops
  | .stopping | .recovery | .faulted => c

/-- The segments of a list closed: each controller as the close leaves it, each segment released at once unowned. -/
def State.closedOn (t : State) (done : List Seg) : State :=
  { t with
    segs := t.segs.mapAll fun x r => if x ∈ done ∧ (t.sgc x).line.frees = true then { r with owner := none } else r
    sgcs := t.sgcs.mapAll fun x c => if x ∈ done then c.closed else c }

section
variable {t : State} {p : Port}

theorem State.closedOn_nil : t.closedOn [] = t := by
  have segs : (t.segs.mapAll fun _ r => r) = t.segs := PerSeg.ext_get fun x => by simp
  have sgcs : (t.sgcs.mapAll fun _ c => c) = t.sgcs := PerSeg.ext_get fun x => by simp
  simp only [State.closedOn, List.not_mem_nil, false_and, if_false, segs, sgcs]

theorem State.seg_closedOn (done : List Seg) (x : Seg) :
    (t.closedOn done).seg x =
      if x ∈ done ∧ (t.sgc x).line.frees = true then { t.seg x with owner := none } else t.seg x := by
  simp [State.closedOn, State.seg]

theorem State.sgc_closedOn (done : List Seg) (x : Seg) :
    (t.closedOn done).sgc x = if x ∈ done then (t.sgc x).closed else t.sgc x := by
  simp [State.closedOn, State.sgc]

theorem State.seg_closedOn_owned (x : Seg) :
    (t.closedOn (t.ownedBy p)).segs.get x =
      if t.owns p x = true ∧ (t.sgc x).line.frees = true then { t.seg x with owner := none } else t.seg x := by
  simp only [← State.mem_ownedBy]
  exact State.seg_closedOn _ x

theorem State.sgc_closedOn_owned (x : Seg) :
    (t.closedOn (t.ownedBy p)).sgcs.get x = if t.owns p x = true then (t.sgc x).closed else t.sgc x := by
  simp only [← State.mem_ownedBy]
  exact State.sgc_closedOn _ x

theorem State.owns_closedOn (done : List Seg) (x : Seg) :
    (t.closedOn done).owns p x = true ↔ t.owns p x = true ∧ ¬ (x ∈ done ∧ (t.sgc x).line.frees = true) := by
  by_cases freed : x ∈ done ∧ (t.sgc x).line.frees = true
  · simp [State.owns, State.seg_closedOn, freed]
  · have same : (t.closedOn done).seg x = t.seg x := (State.seg_closedOn done x).trans (if_neg freed)
    rw [State.owns, same]
    exact ⟨fun h => ⟨h, freed⟩, fun h => h.1⟩

/-- One more segment closed. -/
theorem State.closedOn_append {done : List Seg} {x : Seg} (fresh : x ∉ done) :
    t.closedOn (done ++ [x]) =
      if (t.sgc x).line.frees = true then ((t.closedOn done).modSgc x Sgc.closed).disowned x
      else (t.closedOn done).modSgc x Sgc.closed := by
  have sgcs : (t.sgcs.mapAll fun y c => if y ∈ done ++ [x] then c.closed else c) =
      (t.sgcs.mapAll fun y c => if y ∈ done then c.closed else c).modify x Sgc.closed := PerSeg.ext_get fun y => by
    by_cases e : y = x
    · subst e; simp [fresh]
    · simp [e]
  split
  · rename_i frees
    have segs : (t.segs.mapAll fun y r =>
        if y ∈ done ++ [x] ∧ (t.sgc y).line.frees = true then { r with owner := none } else r) =
        (t.segs.mapAll fun y r => if y ∈ done ∧ (t.sgc y).line.frees = true then { r with owner := none } else r).modify x
          fun r => { r with owner := none } := PerSeg.ext_get fun y => by
      by_cases e : y = x
      · subst e; simp [fresh, frees]
      · simp [e]
    simp only [State.closedOn, segs, sgcs]
    rfl
  · rename_i stays
    have segs : (t.segs.mapAll fun y r =>
        if y ∈ done ++ [x] ∧ (t.sgc y).line.frees = true then { r with owner := none } else r) =
        t.segs.mapAll fun y r => if y ∈ done ∧ (t.sgc y).line.frees = true then { r with owner := none } else r :=
      PerSeg.mapAll_congr fun y => by
        by_cases e : y = x
        · subst e; simp [stays]
        · simp [e]
    simp only [State.closedOn, segs, sgcs]
    rfl

/-- R82, Table 4-4: a close of an owned segment, its list empty if it is released at once. -/
theorem State.closeSeg_closed {k : OwnerKind} {x : Seg} (owner : (t.seg x).owner = some ⟨p, k⟩)
    (list : (t.sgc x).line.frees = true → (t.seg x).waitList = []) :
    t.closeSeg x = if (t.sgc x).line.frees = true then ((t.modSgc x Sgc.closed).disowned x).portReleased p
      else t.modSgc x Sgc.closed := by
  have frees : ∀ (f : Sgc → Sgc), (t.sgc x).line.frees = true → (f (t.sgc x)).released = (t.sgc x).closed →
      (t.modSgc x f).releaseSeg x none = ((t.modSgc x Sgc.closed).disowned x).portReleased p := fun f free same => by
    rw [State.releaseSeg_unwaited (s := t.modSgc x f) owner (list free), State.modSgc_modSgc]
    exact congrArg (fun u : State => (u.disowned x).portReleased p) (State.modSgc_congr t x _ _ same)
  have self : t.modSgc x id = t := State.modSgc_self t x id rfl
  unfold State.closeSeg
  cases line : (t.sgc x).line with
  | idle | foreign =>
    have closed := frees id (by rw [line]; rfl) (by simp only [Sgc.closed, line]; rw [← line]; rfl)
    rw [self] at closed
    exact closed.trans (if_pos rfl).symm
  | busWait => exact (frees _ (by rw [line]; rfl) (by simp only [Sgc.closed, line]; rfl)).trans (if_pos rfl).symm
  | address | write | read | ackHold =>
    exact (State.modSgc_congr t x _ _ (by simp only [Sgc.closed, line])).trans (if_neg nofun).symm
  | parked => exact (State.modSgc_congr t x _ Sgc.closed (by simp only [Sgc.closed, line]; rfl)).trans (if_neg nofun).symm
  | stopping | recovery | faulted =>
    exact (State.modSgc_self t x Sgc.closed (by simp only [Sgc.closed, line])).symm.trans (if_neg nofun).symm

/-- R44: the pending cause waits while some segment is still owned. -/
theorem State.portReleased_waits {x : Seg} (owned : t.owns p x = true) : t.portReleased p = t := by
  unfold State.portReleased
  split
  · refine if_neg fun empty => ?_
    have := State.mem_ownedBy.mpr owned
    rw [List.isEmpty_iff.mp empty] at this
    contradiction
  · rfl

theorem State.owner_of_owns {x : Seg} (h : t.owns p x = true) : ∃ k, (t.seg x).owner = some ⟨p, k⟩ := by
  unfold State.owns at h
  split at h
  · rename_i o owner
    obtain ⟨q, k⟩ := o
    obtain rfl : q = p := by simpa using h
    exact ⟨k, owner⟩
  · contradiction

/-- One close among others: no release acts on what is pending before the last segment is closed. -/
theorem State.closeSeg_closedOn {done : List Seg} {x : Seg} (owned : t.owns p x = true) (fresh : x ∉ done)
    (list : (t.sgc x).line.frees = true → (t.seg x).waitList = []) :
    (t.closedOn done).closeSeg x = (t.closedOn (done ++ [x])).portReleased p := by
  obtain ⟨k, owner⟩ := State.owner_of_owns owned
  have seg : (t.closedOn done).seg x = t.seg x := (State.seg_closedOn done x).trans (if_neg fun h => fresh h.1)
  have sgc : (t.closedOn done).sgc x = t.sgc x := (State.sgc_closedOn done x).trans (if_neg fresh)
  rw [State.closeSeg_closed (by rw [seg]; exact owner) (by rw [sgc, seg]; exact list), sgc, State.closedOn_append fresh]
  split
  · rfl
  · rename_i stays
    have left : ((t.closedOn done).modSgc x Sgc.closed).owns p x = true :=
      (State.owns_closedOn (p := p) done x).mpr ⟨owned, fun h => fresh h.1⟩
    exact (State.portReleased_waits left).symm

theorem State.foldl_closeSeg {rest : List Seg} {x : Seg} {done : List Seg} (nodup : (done ++ x :: rest).Nodup)
    (owned : ∀ y ∈ x :: rest, t.owns p y = true)
    (list : ∀ y ∈ x :: rest, (t.sgc y).line.frees = true → (t.seg y).waitList = []) :
    (x :: rest).foldl State.closeSeg (t.closedOn done) = (t.closedOn (done ++ x :: rest)).portReleased p := by
  have fresh : ∀ y ∈ x :: rest, y ∉ done := fun y hy hd =>
    (List.nodup_append.mp nodup).2.2 y hd y hy rfl
  have here := State.closeSeg_closedOn (owned x List.mem_cons_self) (fresh x List.mem_cons_self)
    (list x List.mem_cons_self)
  induction rest generalizing x done with
  | nil => exact here
  | cons y rest ih =>
    have nodup' : (done ++ [x] ++ y :: rest).Nodup := by rw [List.append_assoc]; exact nodup
    have freshY : y ∉ done ++ [x] := fun hd => (List.nodup_append.mp nodup').2.2 y hd y List.mem_cons_self rfl
    have next : (t.closedOn (done ++ [x])).owns p y = true :=
      (State.owns_closedOn _ y).mpr ⟨owned y (by simp), fun h => freshY h.1⟩
    rw [List.foldl_cons, here, State.portReleased_waits next]
    have step := ih nodup' (fun z hz => owned z (List.mem_cons_of_mem _ hz)) (fun z hz => list z (List.mem_cons_of_mem _ hz))
      (fun z hz hd => (List.nodup_append.mp nodup').2.2 z hd z hz rfl)
      (State.closeSeg_closedOn (owned y (by simp)) freshY (list y (by simp)))
    rw [step, List.append_assoc]
    rfl

/-- R44, R123: everything a port owns is closed, and what is pending is acted on if nothing is left. -/
theorem State.closeAll_closedOn (list : ∀ x, t.owns p x = true → (t.sgc x).line.frees = true → (t.seg x).waitList = []) :
    t.closeAll p = (t.closedOn (t.ownedBy p)).portReleased p := by
  cases owned : t.ownedBy p with
  | nil => rw [State.closeAll_none owned, State.closedOn_nil]
  | cons x rest =>
    have mem : ∀ y ∈ x :: rest, t.owns p y = true := fun y hy => State.mem_ownedBy.mp (owned ▸ hy)
    have all : t.closeAll p = (x :: rest).foldl State.closeSeg t := by
      rw [State.closeAll_of_owned (by rw [owned]; nofun), owned]
    rw [all]
    have closed := State.foldl_closeSeg (t := t) (p := p) (done := []) (owned ▸ t.nodup_ownedBy p) mem
      fun y hy => list y (mem y hy)
    rw [State.closedOn_nil] at closed
    exact closed

/-- Every segment of the port was released at once. -/
theorem State.closeAll_freed {e : Ending} (release : (t.port p).release = some (.ending e))
    (held : (t.port p).quarantineHeld = false)
    (frees : ∀ x, t.owns p x = true → (t.sgc x).line.frees = true ∧ (t.seg x).waitList = []) :
    t.closeAll p = (t.closedOn (t.ownedBy p)).modPort p (PortCtx.acted e) := by
  rw [State.closeAll_closedOn fun x own _ => (frees x own).2]
  refine State.portReleased_ending release (List.eq_nil_iff_forall_not_mem.mpr fun x hx => ?_) held
  obtain ⟨own, kept⟩ := (State.owns_closedOn _ x).mp (State.mem_ownedBy.mp hx)
  exact kept ⟨State.mem_ownedBy.mpr own, (frees x own).1⟩

/-- Some segment of the port has a STOP to send first. -/
theorem State.closeAll_stays {x : Seg} (own : t.owns p x = true) (stays : (t.sgc x).line.frees = false)
    (list : ∀ y, t.owns p y = true → (t.sgc y).line.frees = true → (t.seg y).waitList = []) :
    t.closeAll p = t.closedOn (t.ownedBy p) := by
  rw [State.closeAll_closedOn list]
  refine State.portReleased_waits (x := x) ((State.owns_closedOn _ x).mpr ⟨own, fun h => ?_⟩)
  rw [stays] at h
  exact Bool.false_ne_true h.2

end

/-! ### The expiry (R51, R54, R118, R121) -/

/-- The address is NACKed and END is pending (R54). -/
def PortCtx.expired (c : PortCtx) : PortCtx :=
  { (c.answer .nack).stopTimers with phase := .awaitEnd, release := some (.ending .hold), withdrawal := none }

theorem State.expireAddress_eq (s : State) (p : Port) (sg : Option Seg) :
    s.expireAddress p sg = ((s.modPort p PortCtx.expired).writeRecord p
      (refusalRecord .waitExpired (s.port p).visible sg)).closeAll p := rfl

theorem exec_holdExpiry {s : State} {p : Port} {found : ExpirySample} (running : (s.port p).hold.running = true)
    (arrived : s.crossingFor p found.crossing = none) :
    exec (.holdExpiry p found) s = .next ((s.sampleLines found.low).expireHold p) := by
  have arrived' : (s.sampleLines found.low).crossingFor p found.crossing = none := arrived
  refine congrArg Host.Outcome.next ?_
  unfold State.holdExpiry
  rw [if_neg (by rw [State.port_sampleLines, running]; nofun), arrived']

/-- The one segment in whose list a claim of the port stands. -/
theorem State.waitingIn_eq {s : State} {p : Port} {w : Seg} (here : ∃ c ∈ (s.seg w).waitList, c.port = p)
    (only : ∀ x, x ≠ w → ∀ c ∈ (s.seg x).waitList, c.port ≠ p) : s.waitingIn p = some w := by
  obtain ⟨pre, rest, split, _, hpre⟩ := Seg.all_split w
  have before : (pre.find? fun sg => (s.seg sg).waitList.any fun c => c.port == p) = none := by
    refine List.find?_eq_none.mpr fun x hx => ?_
    have other : x ≠ w := fun e => by
      have := (hpre x).mp hx
      rw [e] at this
      omega
    simpa using only x other
  unfold State.waitingIn
  rw [split, List.find?_append, before, Option.none_or, List.find?_cons_of_pos]
  simpa using here

/-- R15: the port's claim leaves the list, the others keep their order. -/
theorem State.withdraw_eq {s : State} {p : Port} {sg : Seg} {d : Dest} {before after : List Claim}
    (list : (s.seg sg).waitList = before ++ ⟨p, d⟩ :: after) (others : ∀ c ∈ before ++ after, c.port ≠ p) :
    s.withdraw p sg = s.modSeg sg fun r => { r with waitList := before ++ after } := by
  refine State.modSeg_congr s sg _ _ ?_
  have kept : ∀ l : List Claim, (∀ c ∈ l, c.port ≠ p) → (l.filter fun c => c.port != p) = l := fun l h =>
    List.filter_eq_self.mpr fun c hc => by simpa using h c hc
  rw [list, List.filter_append, List.filter_cons_of_neg (by simp), kept before fun c hc => others c (by simp [hc]),
    kept after fun c hc => others c (by simp [hc])]

/-- A hold expiry that NACKs the address, as it stands before the segments are closed, or after. -/
def State.holdRefused (s : State) (p : Port) (f : PortCtx → PortCtx) (visible : Option Addr) (sg : Option Seg) : State :=
  (s.modPort p fun c => f { c with sclHeld := false, ack := some .nack, out := none, withdrawal := none }).writeRecord p
    ⟨.waitExpired, visible, sg, none, none, .zero⟩

/-- END is pending (R54). -/
def PortCtx.endPends (c : PortCtx) : PortCtx :=
  { c with phase := .awaitEnd, release := some (.ending .hold), hold := ⟨c.hold.limit, false⟩, idle := ⟨c.idle.limit, false⟩ }

theorem State.expireAddress_pends (s : State) (p : Port) (sg : Option Seg) :
    s.expireAddress p sg = (s.holdRefused p PortCtx.endPends (s.port p).visible sg).closeAll p := rfl

/-- R44: END acted on at once. -/
theorem State.holdRefused_ended (s : State) (p : Port) (visible : Option Addr) (sg : Option Seg) :
    (s.holdRefused p PortCtx.endPends visible sg).modPort p (PortCtx.acted .hold) =
      s.holdRefused p (PortCtx.ended .idle) visible sg := by
  rw [State.holdRefused, State.modPort_writeRecord _ _ _ _ _ rfl, State.modPort_modPort]
  rfl

theorem State.port_holdRefused (s : State) (p : Port) (visible : Option Addr) (sg : Option Seg) :
    ((s.holdRefused p PortCtx.endPends visible sg).port p).release = some (.ending .hold) ∧
      ((s.holdRefused p PortCtx.endPends visible sg).port p).quarantineHeld = (s.port p).quarantineHeld := by
  rw [State.holdRefused, State.port_writeRecord, State.port_modPort_same]
  exact ⟨rfl, rfl⟩

/-- R51, R54: before any START every segment is released at once and the port is IDLE. -/
theorem State.expireAddress_freed {s : State} {p : Port} (held : (s.port p).quarantineHeld = false)
    (frees : ∀ x, s.owns p x = true → (s.sgc x).line.frees = true ∧ (s.seg x).waitList = []) (sg : Option Seg) :
    s.expireAddress p sg = { s.holdRefused p (PortCtx.ended .idle) (s.port p).visible sg with
      segs := (s.closedOn (s.ownedBy p)).segs, sgcs := (s.closedOn (s.ownedBy p)).sgcs } := by
  obtain ⟨release, kept⟩ := s.port_holdRefused p (s.port p).visible sg
  rw [State.expireAddress_pends, State.closeAll_freed (t := s.holdRefused p PortCtx.endPends (s.port p).visible sg) release
    (kept.trans held) frees, ← State.holdRefused_ended]
  rfl

/-- R54, R82: with a START on some segment END stays pending. -/
theorem State.expireAddress_stays {s : State} {p : Port} {x : Seg} (own : s.owns p x = true)
    (stays : (s.sgc x).line.frees = false)
    (list : ∀ y, s.owns p y = true → (s.sgc y).line.frees = true → (s.seg y).waitList = []) (sg : Option Seg) :
    s.expireAddress p sg = { s.holdRefused p PortCtx.endPends (s.port p).visible sg with
      segs := (s.closedOn (s.ownedBy p)).segs, sgcs := (s.closedOn (s.ownedBy p)).sgcs } := by
  rw [State.expireAddress_pends, State.closeAll_stays (t := s.holdRefused p PortCtx.endPends (s.port p).visible sg) own stays
    list]
  rfl

/-- The one segment of a single transaction closed. -/
theorem State.closedOn_alone {s : State} {p : Port} {x : Seg} (alone : s.ownedBy p = [x]) :
    s.closedOn (s.ownedBy p) =
      if (s.sgc x).line.frees = true then (s.modSgc x Sgc.closed).disowned x else s.modSgc x Sgc.closed := by
  have one := State.closedOn_append (t := s) (done := []) (x := x) List.not_mem_nil
  rw [State.closedOn_nil] at one
  rw [alone]
  exact one

theorem State.crossingFor_none {s : State} {p : Port} {crossing : Bool}
    (h : (s.port p).phase ≠ .claim ∨ (s.port p).withdrawal ≠ none ∨ crossing = false) : s.crossingFor p crossing = none := by
  refine if_neg fun sent => ?_
  simp only [Bool.and_eq_true, beq_iff_eq, Option.isNone_iff_eq_none] at sent
  obtain ⟨⟨crossed, phase⟩, unsent⟩ := sent
  rcases h with h | h | h
  · exact h phase
  · exact h unsent
  · rw [h] at crossed
    contradiction

end Sys2Proof.Machine
end

section
/-! The hold expiry in CLAIM, in OPEN, and in the acquisition of a broadcast (R15, R16, R51, R54, R82, R118, R121). -/

namespace Sys2Proof.Machine

theorem State.single.owns_iff {s : State} {p : Port} {sg : Seg} (h : s.single p sg) (x : Seg) :
    s.owns p x = true ↔ x = sg := by
  rw [← State.mem_ownedBy, h.alone, List.mem_singleton]

theorem PortCtx.visible_route {c : PortCtx} {r : Route} (noSet : c.bset = none) (route : c.route = some r) :
    c.visible = some r.visible := by
  simp [PortCtx.visible, noSet, route]

theorem PortCtx.visible_set {c : PortCtx} (set : c.bset ≠ none) : c.visible = some 0 := by
  obtain ⟨ms, h⟩ := Option.ne_none_iff_exists'.mp set
  simp [PortCtx.visible, h]

/-- Table 4-4, IDLE and FOREIGN. -/
theorem Sgc.closed_free {c : Sgc} (h : c.line = .idle ∨ c.line = .foreign) : c.closed = c.left c.line c.busBusy := by
  rcases h with h | h <;> simp only [Sgc.closed, h]

/-- R54: in OPEN a single transaction is closed on its segment. -/
theorem State.expireHold_open {s : State} {p : Port} {r : Route} (noSet : (s.port p).bset = none)
    (route : (s.port p).route = some r) (phase : (s.port p).phase = .opening) :
    s.expireHold p = s.expireAddress p (some r.seg) := by
  simp only [State.expireHold, phase, noSet, route, Option.map_some]

/-- R118: the claim that waits, or the one the withdrawal was sent for, is taken from its list if it is still there; what
the port owns is released at once. -/
theorem State.expireAcquisition_freed {s : State} {p : Port} {w : Seg} {left : List Claim}
    (set : (s.port p).bset ≠ none) (held : (s.port p).quarantineHeld = false)
    (sent : ((s.port p).withdrawal <|> s.waitingIn p) = some w)
    (withdrawn : s.withdraw p w = s.modSeg w fun r => { r with waitList := left })
    (owned : ∀ x, s.owns p x = true → (s.seg x).waitList = [] ∧ ((s.sgc x).line = .idle ∨ (s.sgc x).line = .foreign))
    (last : s.owns p w = true → left = []) :
    s.expireAcquisition p = { s.holdRefused p (PortCtx.ended .idle) (some 0) (some w) with
      segs := s.segs.mapAll fun x r =>
        if s.owns p x then { r with owner := none } else if x = w then { r with waitList := left } else r
      sgcs := s.sgcs.mapAll fun x c => if s.owns p x then c.left c.line c.busBusy else c } := by
  let t := s.modSeg w fun r => { r with waitList := left }
  have seg : ∀ x, t.seg x = if x = w then { s.seg x with waitList := left } else s.seg x := fun x => by
    by_cases e : x = w
    · subst e; simp [t]
    · simp [t, e]
  have owns : ∀ x, t.owns p x = s.owns p x := fun x => by
    by_cases e : x = w
    · subst e; simp [t, State.owns]
    · simp [t, State.owns, e]
  have frees : ∀ x, s.owns p x = true → (s.sgc x).line.frees = true := fun x own => by
    rcases (owned x own).2 with line | line <;> rw [line] <;> rfl
  have empty : ∀ x, s.owns p x = true → (t.seg x).waitList = [] := fun x own => by
    by_cases e : x = w
    · subst e; simp [t, last own]
    · simp [t, e, (owned x own).1]
  have freed := State.expireAddress_freed (s := t) (p := p) held (fun x own =>
    ⟨frees x (owns x ▸ own), empty x (owns x ▸ own)⟩) (some w)
  have visible : (t.port p).visible = some 0 := PortCtx.visible_set set
  have segs : (t.closedOn (t.ownedBy p)).segs = s.segs.mapAll fun x r =>
      if s.owns p x then { r with owner := none } else if x = w then { r with waitList := left } else r := by
    refine PerSeg.ext_get fun x => ?_
    rw [State.seg_closedOn_owned, owns, PerSeg.get_mapAll]
    by_cases own : s.owns p x = true
    · rw [if_pos ⟨own, frees x own⟩, if_pos own]
      exact congrArg (SegRecord.mk none) ((empty x own).trans (owned x own).1.symm)
    · rw [if_neg fun h => own h.1, if_neg own, seg]
      rfl
  have sgcs : (t.closedOn (t.ownedBy p)).sgcs = s.sgcs.mapAll fun x c => if s.owns p x then c.left c.line c.busBusy else c := by
    refine PerSeg.ext_get fun x => ?_
    rw [State.sgc_closedOn_owned, owns, PerSeg.get_mapAll]
    by_cases own : s.owns p x = true
    · rw [if_pos own, if_pos own]
      exact Sgc.closed_free (owned x own).2
    · rw [if_neg own, if_neg own]
      rfl
  have expired : s.expireAcquisition p = t.expireAddress p (some w) := by
    unfold State.expireAcquisition
    rw [sent]
    exact congrArg (State.expireAddress · p (some w)) withdrawn
  rw [expired, freed, visible, segs, sgcs]
  rfl

/-- Settles O34: by phase, and by what the withdrawal meets. -/
theorem holdExpiryRefusesTheAddress : Obligations.HoldExpiryRefusesTheAddress := by
  refine ⟨?_, ?_, ?_, ?_⟩
  · intro s p found w phase running unsent crossing here only
    have sent : (s.sampleLines found.low).crossingFor p found.crossing = some w := by
      have waiting := State.waitingIn_eq (s := s.sampleLines found.low) here only
      unfold State.crossingFor
      rw [if_pos (by simp [crossing, phase, unsent]), waiting]
    refine congrArg Host.Outcome.next ?_
    unfold State.holdExpiry
    rw [if_neg (by rw [State.port_sampleLines, running]; nofun), sent]
    rfl
  · intro s p found r d before after phase running noSet route list others arrived
    rw [exec_holdExpiry running (State.crossingFor_none (.inr arrived))]
    refine congrArg Host.Outcome.next ?_
    have withdrawn := State.withdraw_eq (s := s.sampleLines found.low) list others
    have waits : ((s.sampleLines found.low).seg r.seg).waitList.any (·.port == p) = true := by
      simp [list]
    simp only [State.expireHold, State.port_sampleLines, phase, noSet, route, State.withdrawSingle]
    rw [if_pos waits, withdrawn]
    rfl
  · intro s p found r single route phase running refused
    rw [exec_holdExpiry running (State.crossingFor_none (.inl (by rw [phase]; nofun))),
      State.expireHold_open (s := s.sampleLines found.low) single.noSet route phase]
    have visible : ((s.sampleLines found.low).port p).visible = some r.visible := PortCtx.visible_route single.noSet route
    have alone := State.closedOn_alone (s := s.sampleLines found.low) single.alone
    refine ⟨fun list held => ?_, fun line => ?_⟩
    · have freed : ∀ f : Sgc → Sgc, (s.sgc r.seg).line.frees = true → (s.sgc r.seg).closed = f (s.sgc r.seg) →
          (s.sampleLines found.low).expireAddress p (some r.seg) =
            ((refused (PortCtx.ended .idle)).disowned r.seg).modSgc r.seg f := fun f frees same => by
        have closed : (s.sampleLines found.low).closedOn ((s.sampleLines found.low).ownedBy p) =
            ((s.sampleLines found.low).modSgc r.seg f).disowned r.seg := by
          rw [alone, State.modSgc_congr (s.sampleLines found.low) r.seg Sgc.closed f same]
          exact if_pos frees
        rw [State.expireAddress_freed (s := s.sampleLines found.low) held fun x own => by
          obtain rfl := (single.owns_iff x).mp own
          exact ⟨frees, list⟩, visible, closed]
        rfl
      refine ⟨fun line => congrArg Host.Outcome.next (freed _ ?_ (Sgc.closed_free line)),
        fun line => congrArg Host.Outcome.next (freed _ ?_ ?_)⟩
      · rcases line with line | line <;> rw [line] <;> rfl
      · rw [line]; rfl
      · simp only [Sgc.closed, line]
    · have stays : (s.sgc r.seg).line.frees = false := by rw [line]; rfl
      have closed : (s.sampleLines found.low).closedOn ((s.sampleLines found.low).ownedBy p) =
          (s.sampleLines found.low).modSgc r.seg fun c => { c with closing := true } := by
        rw [alone, State.modSgc_congr (s.sampleLines found.low) r.seg Sgc.closed (fun c => { c with closing := true })
          (by simp only [State.sgc_sampleLines, Sgc.closed, line])]
        exact if_neg (by rw [State.sgc_sampleLines, stays]; nofun)
      rw [State.expireAddress_stays (s := s.sampleLines found.low) ((single.owns_iff r.seg).mpr rfl) stays fun y own frees => by
        obtain rfl := (single.owns_iff y).mp own
        rw [State.sgc_sampleLines, stays] at frees
        contradiction, visible, closed]
      rfl
  · intro s p found set running held refused
    refine ⟨fun phase owned w only => ?_, fun phase some' lines => ?_⟩
    · have claim : ∀ (left : List Claim) (sent : ((s.port p).withdrawal <|> s.waitingIn p) = some w)
          (withdrawn : (s.sampleLines found.low).withdraw p w =
            (s.sampleLines found.low).modSeg w fun r => { r with waitList := left })
          (last : s.owns p w = true → left = []) (arrived : (s.port p).withdrawal ≠ none ∨ found.crossing = false),
          exec (.holdExpiry p found) s = .next { refused (PortCtx.ended .idle) (some w) with
            segs := s.segs.mapAll fun x r =>
              if s.owns p x then { r with owner := none } else if x = w then { r with waitList := left } else r
            sgcs := s.sgcs.mapAll fun x c => if s.owns p x then c.left c.line c.busBusy else c } :=
        fun left sent withdrawn last arrived => by
        rw [exec_holdExpiry running (State.crossingFor_none (.inr arrived))]
        obtain ⟨ms, hset⟩ := Option.ne_none_iff_exists'.mp set
        have acquiring : (s.sampleLines found.low).expireHold p = (s.sampleLines found.low).expireAcquisition p := by
          simp only [State.expireHold, State.port_sampleLines, phase, hset]
        exact congrArg Host.Outcome.next (acquiring.trans
          (State.expireAcquisition_freed (s := s.sampleLines found.low) set held sent withdrawn owned last))
      refine ⟨fun d before after list others unowned arrived => ?_, fun sent owns => ?_⟩
      · refine claim _ ?_ (State.withdraw_eq (s := s.sampleLines found.low) list others)
          (fun h => absurd h (by rw [unowned]; nofun)) ?_
        · rcases arrived with sent | ⟨unsent, _⟩
          · rw [sent]; rfl
          · rw [unsent, State.waitingIn_eq ⟨⟨p, d⟩, by rw [list]; simp, rfl⟩ only]
            rfl
        · exact arrived.imp (fun sent => by rw [sent]; nofun) And.right
      · refine claim [] (by rw [sent]; rfl) (State.modSeg_congr (s.sampleLines found.low) w _ _ ?_) (fun _ => rfl)
          (.inl (by rw [sent]; nofun))
        rw [State.seg_sampleLines, (owned w owns).1]
        rfl
    · intro closed
      rw [exec_holdExpiry running (State.crossingFor_none (.inl (by rw [phase]; nofun)))]
      obtain ⟨ms, hset⟩ := Option.ne_none_iff_exists'.mp set
      have opened : (s.sampleLines found.low).expireHold p = (s.sampleLines found.low).expireAddress p none := by
        simp only [State.expireHold, State.port_sampleLines, phase, hset]
      have visible : ((s.sampleLines found.low).port p).visible = some 0 := PortCtx.visible_set set
      have frees : ∀ x, s.owns p x = true → ((s.sgc x).line.frees = true ↔ (s.sgc x).line = .busWait) := fun x own => by
        rcases lines x own with ⟨line, _⟩ | line | line | line <;> rw [line] <;> decide
      have list : ∀ x, s.owns p x = true → (s.sgc x).line.frees = true → (s.seg x).waitList = [] := fun x own free => by
        rcases lines x own with ⟨_, empty⟩ | line
        · exact empty
        · rw [(frees x own).mp free] at line
          simp at line
      have segs : ((s.sampleLines found.low).closedOn ((s.sampleLines found.low).ownedBy p)).segs =
          s.segs.mapAll fun x r => if s.owns p x && (s.sgc x).line == .busWait then { r with owner := none } else r := by
        refine PerSeg.ext_get fun x => ?_
        rw [State.seg_closedOn_owned, PerSeg.get_mapAll]
        refine if_congr ?_ rfl rfl
        rw [Bool.and_eq_true, beq_iff_eq]
        exact and_congr_right (frees x)
      have sgcs : ((s.sampleLines found.low).closedOn ((s.sampleLines found.low).ownedBy p)).sgcs =
          s.sgcs.mapAll fun x c =>
            if s.owns p x = false then c
            else if c.line = .busWait then c.left (if c.busBusy then .foreign else .idle) c.busBusy
            else if c.line = .address then { c with closing := true }
            else if c.line = .parked then c.stops
            else c := by
        refine PerSeg.ext_get fun x => ?_
        rw [State.sgc_closedOn_owned, PerSeg.get_mapAll]
        by_cases own : s.owns p x = true
        · have unfree : ¬ s.owns p x = false := by rw [own]; nofun
          refine (if_pos own).trans (Eq.trans ?_ (if_neg unfree).symm)
          have get : s.sgcs.get x = s.sgc x := rfl
          rw [State.sgc_sampleLines, get]
          rcases lines x own with ⟨line, _⟩ | line | line | line
          all_goals simp [Sgc.closed, line]
        · exact (if_neg own).trans (if_pos (by simpa using own)).symm
      have expired := fun f =>
        congrArg₂ (fun v w => ({ refused f none with segs := v, sgcs := w } : State)) segs sgcs
      refine ⟨fun ⟨x, own, stays⟩ => ?_, fun all => ?_⟩
      · have stays' : (s.sgc x).line.frees = false := by
          rw [Bool.eq_false_iff]
          exact fun h => stays ((frees x own).mp h)
        rw [opened, State.expireAddress_stays (s := s.sampleLines found.low) own stays' list, visible]
        exact congrArg Host.Outcome.next (expired PortCtx.endPends)
      · rw [opened, State.expireAddress_freed (s := s.sampleLines found.low) held fun x own =>
          ⟨(frees x own).mpr (all x own), list x own ((frees x own).mpr (all x own))⟩, visible]
        exact congrArg Host.Outcome.next (expired (PortCtx.ended .idle))

end Sys2Proof.Machine
end

section
/-! An address byte held for a reply (R157) is not looked at until it is resolved: every operation does the same whichever
byte the port holds. -/

namespace Sys2Proof.Machine

/-- The port holds this address byte, or none, until the reply is written. -/
def State.holding (s : State) (p : Port) (h : Option AddrByte) : State := s.modPort p fun c => { c with heldAddr := h }

section
variable (s : State) (p : Port) (h : Option AddrByte)

theorem State.port_holding {β : Type} (g : PortCtx → β) (hg : ∀ c : PortCtx, g { c with heldAddr := h } = g c) (q : Port) :
    g ((s.holding p h).port q) = g (s.port q) := by
  by_cases e : q = p
  · subst e
    rw [State.holding, State.port_modPort_same, hg]
  · rw [State.holding, State.port_modPort_ne _ _ _ e]

theorem State.modPort_holding (q : Port) (f : PortCtx → PortCtx)
    (hf : ∀ c : PortCtx, f { c with heldAddr := h } = { f c with heldAddr := h } := by exact fun _ => rfl) :
    (s.holding p h).modPort q f = (s.modPort q f).holding p h := by
  by_cases e : q = p
  · subst e
    rw [State.holding, State.holding, State.modPort_modPort, State.modPort_modPort]
    exact congrArg (State.modPort s q) (funext hf)
  · exact State.modPort_comm s _ f e

theorem State.modPort_holding_ne {q : Port} (e : q ≠ p) (f : PortCtx → PortCtx) :
    (s.holding p h).modPort q f = (s.modPort q f).holding p h := State.modPort_comm s _ f e

theorem State.writeRecord_holding (q : Port) (b : RecordBody) :
    (s.holding p h).writeRecord q b = (s.writeRecord q b).holding p h :=
  (State.modPort_writeRecord s p q (fun c => { c with heldAddr := h }) b rfl).symm

theorem State.foldl_holding {α : Type} {f : State → α → State}
    (hf : ∀ (t : State) a, f (t.holding p h) a = (f t a).holding p h) (as : List α) :
    as.foldl f (s.holding p h) = (as.foldl f s).holding p h := by
  induction as generalizing s with
  | nil => rfl
  | cons a rest ih => rw [List.foldl_cons, hf, ih, List.foldl_cons]

theorem State.markOf_holding (q : Port) (x : Seg) : (s.holding p h).markOf q x = s.markOf q x := by
  unfold State.markOf
  rw [s.port_holding p h PortCtx.bset fun _ => rfl]

theorem State.ownedMembers_holding (q : Port) : (s.holding p h).ownedMembers q = s.ownedMembers q := by
  unfold State.ownedMembers
  simp only [State.markOf_holding]

/-! ### Claims and their answers -/

theorem State.refuse_holding (q : Port) (b : RecordBody) :
    (s.holding p h).refuse q b = (s.refuse q b).holding p h := by
  rw [State.refuse, State.modPort_holding s p h q PortCtx.refused, State.writeRecord_holding, State.refuse]

theorem State.markMember_holding (q : Port) (x : Seg) (m : Mark) :
    (s.holding p h).markMember q x m = (s.markMember q x m).holding p h := State.modPort_holding s p h q _

theorem State.dropMember_holding (q : Port) (x : Seg) (why : RefusalReason) :
    (s.holding p h).dropMember q x why = (s.dropMember q x why).holding p h := by
  rw [State.dropMember, State.markMember_holding,
    State.modPort_holding (s.markMember q x .dropped) p h q fun c => { c with refusalLeft := true },
    State.writeRecord_holding, State.dropMember]

theorem State.openSingle_holding (q : Port) : (s.holding p h).openSingle q = (s.openSingle q).holding p h := by
  unfold State.openSingle
  rw [s.port_holding p h PortCtx.withdrawal fun _ => rfl, s.port_holding p h PortCtx.route fun _ => rfl,
    State.modPort_holding s p h q fun c => { c with phase := .opening }]
  cases (s.port q).withdrawal <;> cases (s.port q).route <;> rfl

theorem State.acquisitionEnd_holding (q : Port) :
    (s.holding p h).acquisitionEnd q = (s.acquisitionEnd q).holding p h := by
  unfold State.acquisitionEnd
  rw [State.ownedMembers_holding]
  cases s.ownedMembers q with
  | nil => exact State.modPort_holding s p h q PortCtx.refused
  | cons x rest =>
    have opened := State.modPort_holding s p h q fun c => { c with phase := .opening }
    exact (congrArg (List.foldl _ · (x :: rest)) opened).trans (State.foldl_holding _ p h (fun _ _ => rfl) _)

theorem State.acquire_holding (q : Port) (xs : List Seg) :
    State.acquire q xs (s.holding p h) = (State.acquire q xs s).holding p h := by
  induction xs generalizing s with
  | nil => exact State.acquisitionEnd_holding s p h q
  | cons x rest ih =>
    have arrival : (s.holding p h).arrival q x .generalCall = s.arrival q x .generalCall := rfl
    have granted : (s.holding p h).setOwner q x .generalCall = (s.setOwner q x .generalCall).holding p h := rfl
    unfold State.acquire
    rw [State.markOf_holding, arrival]
    split
    · cases s.arrival q x .generalCall with
      | refused why => exact (congrArg (State.acquire q rest) (State.dropMember_holding s p h q x why)).trans (ih _)
      | granted =>
        have owned := State.markMember_holding (s.setOwner q x .generalCall) p h q x .owned
        exact (congrArg (State.acquire q rest) owned).trans (ih _)
      | queued => rfl
    · exact ih s

theorem State.acquireNext_holding (q : Port) : (s.holding p h).acquireNext q = (s.acquireNext q).holding p h := by
  unfold State.acquireNext
  rw [s.port_holding p h PortCtx.withdrawal fun _ => rfl]
  cases (s.port q).withdrawal with
  | none => exact State.acquire_holding s p h q Seg.all
  | some w => rfl

theorem State.refuseClaim_holding (why : RefusalReason) (sg : Seg) (c : Claim) :
    State.refuseClaim why sg (s.holding p h) c = (State.refuseClaim why sg s c).holding p h := by
  unfold State.refuseClaim
  split
  · rw [s.port_holding p h PortCtx.route fun _ => rfl]
    exact State.refuse_holding s p h c.port _
  · rw [State.dropMember_holding]
    exact State.acquireNext_holding _ p h c.port

theorem State.dropIfPending_holding (why : RefusalReason) (sg : Seg) (q : Port) :
    State.dropIfPending why sg (s.holding p h) q = (State.dropIfPending why sg s q).holding p h := by
  unfold State.dropIfPending
  rw [State.markOf_holding]
  split
  · exact State.dropMember_holding s p h q sg why
  · rfl

theorem State.turnAway_holding (why : RefusalReason) (sg : Seg) (claims : List Claim) (ports : List Port) :
    (s.holding p h).turnAway why sg claims ports = (s.turnAway why sg claims ports).holding p h := by
  unfold State.turnAway
  rw [State.foldl_holding s p h fun t c => State.refuseClaim_holding t p h why sg c]
  exact State.foldl_holding _ p h (fun t q => State.dropIfPending_holding t p h why sg q) ports

theorem State.conditionLeft_holding (sg : Seg) : (s.holding p h).conditionLeft sg = (s.conditionLeft sg).holding p h :=
  State.turnAway_holding (s.modSeg sg fun r => { r with waitList := [] }) p h .segmentUnavailable sg _ _

theorem State.leaseHandOver_holding (l : Lease) : (s.holding p h).leaseHandOver l = (s.leaseHandOver l).holding p h :=
  State.turnAway_holding (s.modSeg l.seg fun r =>
    { r with waitList := r.waitList.filter fun c => !(c.port != l.holder && l.covers l.seg c.dest) }) p h _ l.seg _ _

/-! ### An address resolved for another port -/

theorem State.claimSingle_holding (q : Port) (r : Route) :
    (s.holding p h).claimSingle q r = (s.claimSingle q r).holding p h := by
  have arrival : (s.holding p h).arrival q r.seg (.device r.downstream) = s.arrival q r.seg (.device r.downstream) := rfl
  rw [State.claimSingle_eq, State.claimSingle_eq, arrival, State.modPort_holding s p h q (PortCtx.claiming r)]
  cases s.arrival q r.seg (.device r.downstream) with
  | refused why => exact State.refuse_holding _ p h q _
  | granted =>
    exact State.openSingle_holding ((s.modPort q (PortCtx.claiming r)).setOwner q r.seg (.device r.downstream)) p h q
  | queued => rfl

theorem State.shutOutRecorded_holding (q : Port) (left : List (Seg × Byte)) :
    (s.holding p h).shutOutRecorded q left = (s.shutOutRecorded q left).holding p h :=
  State.foldl_holding s p h (fun t _ => State.writeRecord_holding t p h q _) left

theorem State.formBroadcast_holding (q : Port) : (s.holding p h).formBroadcast q = (s.formBroadcast q).holding p h := by
  have members : (s.holding p h).broadcastMembers q = s.broadcastMembers q := rfl
  have excluded : (s.holding p h).broadcastExcluded q = s.broadcastExcluded q := rfl
  rw [State.formBroadcast_eq, State.formBroadcast_eq, members, excluded, State.modPort_holding s p h q PortCtx.refused,
    State.modPort_holding s p h q (PortCtx.forming _ _), State.shutOutRecorded_holding, State.shutOutRecorded_holding]
  split
  · rfl
  · exact State.acquire_holding _ p h q Seg.all

theorem State.resolve_holding {q : Port} (e : q ≠ p) (b : AddrByte) :
    (s.holding p h).resolve q b = (s.resolve q b).holding p h := by
  have same : (s.holding p h).resolution q b = s.resolution q b :=
    State.resolution_congr (s := s) (t := s.holding p h) (s.port_holding p h PortCtx.quarantined (fun _ => rfl) q) rfl rfl rfl
      (fun _ => rfl) b
  rw [State.resolve_eq, State.resolve_eq, same, State.modPort_holding_ne s p h e]
  cases s.resolution q b with
  | silentNack => exact State.modPort_holding_ne _ p h e _
  | broadcast => exact State.formBroadcast_holding _ p h q
  | management dir => exact State.modPort_holding_ne _ p h e _
  | refused why sg => exact State.refuse_holding _ p h q _
  | route r => exact State.claimSingle_holding _ p h q r

/-! ### Releases -/

theorem State.grantHead_holding (sg : Seg) : (s.holding p h).grantHead sg = (s.grantHead sg).holding p h := by
  have list : ((s.holding p h).seg sg).waitList = (s.seg sg).waitList := rfl
  unfold State.grantHead
  rw [list]
  cases (s.seg sg).waitList with
  | nil => rfl
  | cons c rest =>
    obtain ⟨q, dest⟩ := c
    have granted : ∀ d, (((s.holding p h).modSeg sg fun r => { r with waitList := rest }).setOwner q sg d) =
        (((s.modSeg sg fun r => { r with waitList := rest }).setOwner q sg d)).holding p h := fun _ => rfl
    cases dest with
    | device a => exact (congrArg (State.openSingle · q) (granted _)).trans (State.openSingle_holding _ p h q)
    | generalCall =>
      have marked := (congrArg (fun t : State => t.markMember q sg .owned) (granted .generalCall)).trans
        (State.markMember_holding _ p h q sg .owned)
      exact (congrArg (State.acquireNext · q) marked).trans (State.acquireNext_holding _ p h q)

theorem State.enterQuarantine_holding (q : Port) :
    (s.holding p h).enterQuarantine q = (s.enterQuarantine q).holding p h := by
  let flagged := (s.modPort q fun c => { c with quarantined := true, quarantineHeld := false }).setLeases
    (s.leases.filter fun l => l.holder != q)
  have same : ((s.holding p h).modPort q fun c => { c with quarantined := true, quarantineHeld := false }).setLeases
      (s.leases.filter fun l => l.holder != q) = flagged.holding p h :=
    congrArg (State.setLeases · _) (State.modPort_holding s p h q _)
  have told := State.foldl_holding flagged p h (f := fun t l => t.writeRecord q (leaseRecord .leaseRevoked l))
    (fun t l => State.writeRecord_holding t p h q (leaseRecord .leaseRevoked l))
    (s.leasesHeld q)
  calc (s.holding p h).enterQuarantine q
      = ((s.leasesHeld q).foldl (fun t l => t.writeRecord q (leaseRecord .leaseRevoked l)) (flagged.holding p h)).writeRecord q
          (portRecord .quarantined (.revoked (s.leasesHeld q).length)) := by rw [← same]; rfl
    _ = (s.enterQuarantine q).holding p h := by rw [told, State.writeRecord_holding]; rfl

/-- The one operation that looks at a held byte is the resolution of the port's own address byte. -/
theorem State.finishRelease_holding {q : Port} {pend : Pending} (ok : q ≠ p ∨ ∃ e, pend = .ending e) :
    (s.holding p h).finishRelease q pend = (s.finishRelease q pend).holding p h := by
  have held : ((s.holding p h).port q).quarantineHeld = (s.port q).quarantineHeld :=
    s.port_holding p h PortCtx.quarantineHeld (fun _ => rfl) q
  rw [State.finishRelease_eq, State.finishRelease_eq, held, State.modPort_holding s p h q (PortCtx.finished pend),
    State.enterQuarantine_holding]
  have acted : ∀ t : State, (t.holding p h).actOnPending q pend = (t.actOnPending q pend).holding p h := fun t => by
    rcases pend with e | ⟨b, r⟩
    · rw [State.actOnPending_ending, State.actOnPending_ending]
      exact State.modPort_holding t p h q fun c => { c with phase := Ending.phaseAfter e }
    · exact State.resolve_holding t p h (ok.resolve_right fun ⟨_, h⟩ => nomatch h) b
  split
  · exact acted _
  · exact acted _

theorem State.portReleased_holding (q : Port) (ok : (s.port p).noAddress) :
    (s.holding p h).portReleased q = (s.portReleased q).holding p h := by
  have owned : (s.holding p h).ownedBy q = s.ownedBy q := rfl
  unfold State.portReleased
  rw [s.port_holding p h PortCtx.release (fun _ => rfl) q, owned]
  cases release : (s.port q).release with
  | none => rfl
  | some pend =>
    simp only
    split
    · refine State.finishRelease_holding s p h ?_
      by_cases e : q = p
      · subst e
        cases pend with
        | ending e => exact .inr ⟨e, rfl⟩
        | address b r => exact absurd release (ok b r)
      · exact .inl e
    · rfl

theorem ActsFor.noAddress_any {q r : Port} {s t : State} (acts : ActsFor q s t) (ok : (s.port r).noAddress) :
    (t.port r).noAddress := by
  by_cases e : r = q
  · subst e; exact acts.noAddress ok
  · rw [acts.port r e]; exact ok

theorem State.grantHead_noAddress {s : State} {sg : Seg} (ok : (s.port p).noAddress) : ((s.grantHead sg).port p).noAddress := by
  unfold State.grantHead
  split
  · exact ok
  · rename_i c rest _
    simp only
    split
    · exact (State.openSingle_actsFor _ c.port).noAddress_any (s := (s.modSeg sg fun r => { r with waitList := rest }).setOwner
        c.port sg c.dest) ok
    · exact ((State.markMember_actsFor _ c.port sg .owned).trans (State.acquireNext_actsFor _ c.port)).noAddress_any
        (s := (s.modSeg sg fun r => { r with waitList := rest }).setOwner c.port sg c.dest) ok

/-- A release, and with it whatever the last release of a port leads to. -/
theorem State.releaseSeg_holding (sg : Seg) (ok : (s.port p).noAddress) :
    (s.holding p h).releaseSeg sg none = (s.releaseSeg sg none).holding p h ∧
      ((s.releaseSeg sg none).port p).noAddress := by
  let freed := (s.modSgc sg Sgc.released).disowned sg
  have owner : ((s.holding p h).seg sg).owner = (s.seg sg).owner := rfl
  have same : ((s.holding p h).modSgc sg Sgc.released).disowned sg = freed.holding p h := rfl
  have cond : (freed.holding p h).condition sg = freed.condition sg := rfl
  have okFreed : (freed.port p).noAddress := ok
  unfold State.releaseSeg
  rw [owner]
  cases (s.seg sg).owner with
  | none => exact ⟨rfl, ok⟩
  | some o =>
    change (State.portReleased (if (freed.holding p h).condition sg == .available then (freed.holding p h).grantHead sg
        else freed.holding p h) o.port = (State.portReleased (if freed.condition sg == .available then freed.grantHead sg
        else freed) o.port).holding p h) ∧ ((State.portReleased (if freed.condition sg == .available then freed.grantHead sg
        else freed) o.port).port p).noAddress
    rw [cond]
    split
    · rw [State.grantHead_holding]
      exact ⟨State.portReleased_holding _ p h o.port (State.grantHead_noAddress p okFreed),
        (State.portReleased_actsFor _ o.port).noAddress_any (State.grantHead_noAddress p okFreed)⟩
    · exact ⟨State.portReleased_holding _ p h o.port okFreed, (State.portReleased_actsFor _ o.port).noAddress_any okFreed⟩

theorem State.closeSeg_holding (sg : Seg) (ok : (s.port p).noAddress) :
    (s.holding p h).closeSeg sg = (s.closeSeg sg).holding p h ∧ ((s.closeSeg sg).port p).noAddress := by
  have line : ((s.holding p h).sgc sg).line = (s.sgc sg).line := rfl
  unfold State.closeSeg
  rw [line]
  cases (s.sgc sg).line with
  | idle | foreign => exact State.releaseSeg_holding s p h sg ok
  | busWait =>
    exact State.releaseSeg_holding (s.modSgc sg fun c => { c with line := if c.busBusy then .foreign else .idle }) p h sg ok
  | address | write | read | ackHold | parked | stopping | recovery | faulted => exact ⟨rfl, ok⟩

theorem State.switchResetSegment_holding (sg : Seg) (ok : (s.port p).noAddress) :
    (s.holding p h).switchResetSegment sg = (s.switchResetSegment sg).holding p h ∧
      ((s.switchResetSegment sg).port p).noAddress := by
  have line : ((s.holding p h).sgc sg).line = (s.sgc sg).line := rfl
  have owner : ((s.holding p h).seg sg).owner = (s.seg sg).owner := rfl
  have close := State.closeSeg_holding s p h sg ok
  unfold State.switchResetSegment
  rw [line, owner]
  cases (s.sgc sg).line with
  | recovery | faulted => exact ⟨rfl, ok⟩
  | idle | foreign | busWait | address | write | read | ackHold | parked | stopping =>
    cases (s.seg sg).owner with
    | none => exact ⟨rfl, ok⟩
    | some o => exact close

/-- A fold of operations that keep ADDRESS from the port. -/
theorem State.foldl_holding_noAddress {α : Type} {f : State → α → State}
    (hf : ∀ (t : State) a, (t.port p).noAddress → f (t.holding p h) a = (f t a).holding p h ∧ ((f t a).port p).noAddress)
    (as : List α) {s : State} (ok : (s.port p).noAddress) :
    as.foldl f (s.holding p h) = (as.foldl f s).holding p h ∧ ((as.foldl f s).port p).noAddress := by
  induction as generalizing s with
  | nil => exact ⟨rfl, ok⟩
  | cons a rest ih =>
    obtain ⟨same, kept⟩ := hf s a ok
    rw [List.foldl_cons, same]
    exact ih kept

theorem PortCtx.aborted_holding (setter : AbortSetter) (c : PortCtx) :
    PortCtx.aborted setter { c with heldAddr := h } = { c.aborted setter with heldAddr := h } := by
  unfold PortCtx.aborted PortCtx.abortFace
  simp only
  split
  · rfl
  · split <;> rfl
  all_goals rfl

theorem PortCtx.switchReset_holding (clocked : Bool) (c : PortCtx) :
    PortCtx.switchReset clocked { c with heldAddr := h } = { c.switchReset clocked with heldAddr := h } := by
  have aborted := PortCtx.aborted_holding h .switchReset
    { c with quarantined := false, quarantineHeld := false, errCount := 0, withdrawal := none }
  have counted := PortCtx.aborted_holding h .switchReset
    (PortCtx.countByte { c with quarantined := false, quarantineHeld := false, errCount := 0, withdrawal := none })
  unfold PortCtx.switchReset
  simp only
  split
  case h_7 | h_8 | h_10 => exact aborted
  case h_9 =>
    split
    · exact counted
    · exact aborted
  all_goals rfl

theorem PortCtx.switchReset_noAddress (clocked : Bool) {c : PortCtx} (ok : c.noAddress) :
    (c.switchReset clocked).noAddress := by
  unfold PortCtx.switchReset
  simp only
  split
  case h_6 | h_7 | h_8 | h_9 | h_10 => exact fun _ _ => nofun
  all_goals exact ok

/-- R20, Table 3-7: what a switch reset does before it closes the segments. -/
def State.resetPorts (s : State) (clocked : List Port) : State :=
  { s.removeClaims with
    ports := s.ports.mapAll fun q c => c.switchReset (clocked.contains q)
    leases := [], nextLeaseId := 1 }

/-- R152: each log emptied, with its RESET_NOTICE. -/
def State.resetLogs (s : State) : State := { s with logs := s.logs.mapAll fun q _ => resetNoticeLog (s.port q).mask }

theorem State.switchReset_eq (s : State) (clocked : List Port) :
    s.switchReset clocked =
      (Port.all.foldl State.portReleased (Seg.all.foldl State.switchResetSegment (s.resetPorts clocked))).resetLogs := rfl

theorem State.port_resetPorts (clocked : List Port) (q : Port) :
    (s.resetPorts clocked).port q = (s.port q).switchReset (clocked.contains q) := by
  simp [State.resetPorts, State.port]

theorem State.resetPorts_holding (clocked : List Port) :
    (s.holding p h).resetPorts clocked = (s.resetPorts clocked).holding p h := by
  have ports : ((s.holding p h).ports.mapAll fun q c => c.switchReset (clocked.contains q)) =
      ((s.resetPorts clocked).holding p h).ports := PerPort.ext_get fun q => by
    change ((s.holding p h).resetPorts clocked).port q = ((s.resetPorts clocked).holding p h).port q
    rw [State.port_resetPorts]
    by_cases e : q = p
    · subst e
      rw [State.holding, State.port_modPort_same, State.holding, State.port_modPort_same, State.port_resetPorts,
        PortCtx.switchReset_holding]
    · rw [State.holding, State.port_modPort_ne _ _ _ e, State.holding, State.port_modPort_ne _ _ _ e, State.port_resetPorts]
  exact congrArg (fun v => ({ s.removeClaims with ports := v, leases := [], nextLeaseId := 1 } : State)) ports

theorem State.resetLogs_holding : (s.holding p h).resetLogs = s.resetLogs.holding p h := by
  have logs : ((s.holding p h).logs.mapAll fun q _ => resetNoticeLog ((s.holding p h).port q).mask) =
      s.logs.mapAll fun q _ => resetNoticeLog (s.port q).mask := PerPort.ext_get fun q => by
    rw [PerPort.get_mapAll, PerPort.get_mapAll, s.port_holding p h PortCtx.mask fun _ => rfl]
  exact congrArg (fun v => ({ s.holding p h with logs := v } : State)) logs

theorem State.switchReset_holding (clocked : List Port) (ok : (s.port p).noAddress) :
    (s.holding p h).switchReset clocked = (s.switchReset clocked).holding p h := by
  have okPorts : ((s.resetPorts clocked).port p).noAddress := by
    rw [State.port_resetPorts]
    exact PortCtx.switchReset_noAddress _ ok
  obtain ⟨segs, okSegs⟩ := State.foldl_holding_noAddress p h (fun t x okt => State.switchResetSegment_holding t p h x okt)
    Seg.all okPorts
  obtain ⟨ports, _⟩ := State.foldl_holding_noAddress p h (fun t q okt =>
    ⟨State.portReleased_holding t p h q okt, (State.portReleased_actsFor t q).noAddress_any okt⟩) Port.all okSegs
  rw [State.switchReset_eq, State.switchReset_eq, State.resetPorts_holding, segs, ports, State.resetLogs_holding]

end

end Sys2Proof.Machine
end

section
/-! The Engine's commands do the same whichever address byte the port holds; the byte is resolved after the reply (R157). -/

namespace Sys2Proof.Machine

/-- The same answer, with the address byte held in the state after it. -/
def Answered.holding (a : Answered) (p : Port) (h : Option AddrByte) : Answered := ⟨a.state.holding p h, a.reply⟩

/-- What carries out each command of the Engine. -/
def engineBody (p : Port) (clocked : List Port) : CommandId → List Byte → State → Answered
  | .status => statusBody p
  | .portSet => portSetBody p
  | .switchReset => switchResetBody clocked
  | .reserve => reserveBody p
  | .renew => renewBody p
  | .release => releaseBody p
  | .revoke => revokeBody
  | .leaseList => leaseListBody
  | .segmentSet => segmentSetBody
  | .segmentRecover => segmentRecoverBody p
  | .mapSet => mapSetBody
  | .mapClear => mapClearBody
  | .mapRead => mapReadBody
  | .portRestore => portRestoreBody
  | .logRead => logReadBody p

theorem exec_engineRow (p : Port) (low : List Seg) (clocked : List Port) (id : CommandId) (s : State) :
    exec (engineRow p low clocked id) s = .next ((s.sampleLines low).takeCommand p id (engineBody p clocked id)) := by
  cases id <;> rfl

section
variable (s : State) (p : Port) (h : Option AddrByte) (args : List Byte)

theorem statusPayload_holding (q : Port) : statusPayload (s.holding p h) q = statusPayload s q := by
  have ports : (fun r => portByte ((s.holding p h).port r)) = fun r => portByte (s.port r) :=
    funext fun r => s.port_holding p h portByte (fun _ => rfl) r
  unfold statusPayload
  simp only [ports, s.port_holding p h PortCtx.quarantined (fun _ => rfl) q,
    s.port_holding p h PortCtx.errCount (fun _ => rfl) q, s.port_holding p h PortCtx.holdLimit (fun _ => rfl) q,
    s.port_holding p h PortCtx.idleLimit (fun _ => rfl) q, s.port_holding p h PortCtx.mask (fun _ => rfl) q]
  rfl

theorem statusBody_holding : statusBody p args (s.holding p h) = (statusBody p args s).holding p h := by
  rw [statusBody, statusPayload_holding]
  rfl

theorem State.setAttention_holding (q : Port) : (s.holding p h).setAttention q = (s.setAttention q).holding p h := by
  unfold State.setAttention
  rw [s.port_holding p h PortCtx.mask fun _ => rfl]
  rfl

theorem portSetBody_holding : portSetBody p args (s.holding p h) = (portSetBody p args s).holding p h := by
  unfold portSetBody
  split
  · split
    · rename_i hold idle mask _ _ _
      have set := (congrArg (State.setAttention · p) (State.modPort_holding s p h p fun c =>
        { c with holdLimit := hold, idleLimit := idle, mask := mask })).trans (State.setAttention_holding _ p h p)
      exact congrArg (Answered.mk · _) set
    · rfl
  · rfl

theorem switchResetBody_holding (clocked : List Port) (ok : (s.port p).noAddress) :
    switchResetBody clocked args (s.holding p h) = (switchResetBody clocked args s).holding p h :=
  congrArg (Answered.mk · _) (State.switchReset_holding s p h clocked ok)

theorem State.reserve_holding (sg : Seg) (target : Option Addr) (d : Word16) :
    (s.holding p h).reserve p sg target d = (s.reserve p sg target d).holding p h := by
  have overlapping : (s.holding p h).overlapping sg target = s.overlapping sg target := rfl
  have leases : (s.holding p h).leases = s.leases := rfl
  have held : (s.holding p h).leasesHeld p = s.leasesHeld p := rfl
  unfold State.reserve
  rw [overlapping, leases, held]
  split
  · rfl
  · split
    · rfl
    · split
      · exact congrArg (Answered.mk · _) (State.leaseHandOver_holding
          { s with leases := insertLease (s.newLease p sg target d) s.leases
                   nextLeaseId := idAfter (s.newLease p sg target d).id } p h (s.newLease p sg target d))
      · rfl

theorem reserveBody_holding : reserveBody p args (s.holding p h) = (reserveBody p args s).holding p h := by
  unfold reserveBody
  split
  · split
    · exact State.reserve_holding s p h _ _ _
    · rfl
  · rfl

theorem renewBody_holding : renewBody p args (s.holding p h) = (renewBody p args s).holding p h := by
  have found : ∀ id, (s.holding p h).leaseOf id = s.leaseOf id := fun _ => rfl
  unfold renewBody
  simp only [found]
  repeat' split
  all_goals rfl

theorem releaseBody_holding : releaseBody p args (s.holding p h) = (releaseBody p args s).holding p h := by
  have found : ∀ id, (s.holding p h).leaseOf id = s.leaseOf id := fun _ => rfl
  unfold releaseBody
  simp only [found]
  repeat' split
  all_goals rfl

theorem revokeBody_holding : revokeBody args (s.holding p h) = (revokeBody args s).holding p h := by
  have found : ∀ id, (s.holding p h).leaseOf id = s.leaseOf id := fun _ => rfl
  unfold revokeBody
  simp only [found]
  split
  · split
    · rfl
    · split
      · rename_i id _ _ l _
        exact congrArg (Answered.mk · _) (State.writeRecord_holding (s.setLeases (removeLease id s.leases)) p h l.holder _)
      · rfl
  · rfl

theorem State.inBroadcast_holding (sg : Seg) : (s.holding p h).inBroadcast sg = s.inBroadcast sg := by
  unfold State.inBroadcast
  simp only [State.markOf_holding]
  rfl

theorem segmentSetBody_holding : segmentSetBody args (s.holding p h) = (segmentSetBody args s).holding p h := by
  unfold segmentSetBody
  simp only [State.inBroadcast_holding]
  repeat' split
  all_goals rfl

theorem State.startRecovery_holding (sg : Seg) :
    (s.holding p h).startRecovery p sg = (s.startRecovery p sg).holding p h :=
  State.conditionLeft_holding (s.modSgc sg fun c =>
    { c with line := .recovery, origin := some (.command p), freeCheck := false }) p h sg

theorem segmentRecoverBody_holding :
    segmentRecoverBody p args (s.holding p h) = (segmentRecoverBody p args s).holding p h := by
  have owner : ∀ x, ((s.holding p h).seg x).owner = (s.seg x).owner := fun _ => rfl
  have line : ∀ x, ((s.holding p h).sgc x).line = (s.sgc x).line := fun _ => rfl
  unfold segmentRecoverBody
  simp only [owner, line, State.startRecovery_holding]
  repeat' split
  all_goals rfl

theorem mapSetBody_holding : mapSetBody args (s.holding p h) = (mapSetBody args s).holding p h := by
  have straps : (s.holding p h).straps = s.straps := rfl
  have set : ∀ e, (s.holding p h).mapSet e = (s.mapSet e).holding p h := fun e => by
    have map : (s.holding p h).map = s.map := rfl
    unfold State.mapSet
    simp only [map]
    split <;> rfl
  unfold mapSetBody
  simp only [straps, set]
  repeat' split
  all_goals rfl

theorem mapClearBody_holding : mapClearBody args (s.holding p h) = (mapClearBody args s).holding p h := by
  have map : (s.holding p h).map = s.map := rfl
  unfold mapClearBody
  simp only [map]
  repeat' split
  all_goals rfl

theorem mapReadBody_holding : mapReadBody args (s.holding p h) = (mapReadBody args s).holding p h := by
  have map : (s.holding p h).map = s.map := rfl
  unfold mapReadBody
  simp only [map]
  repeat' split
  all_goals rfl

theorem portRestoreBody_holding : portRestoreBody args (s.holding p h) = (portRestoreBody args s).holding p h := by
  unfold portRestoreBody
  simp only [s.port_holding p h PortCtx.quarantined fun _ => rfl]
  split
  · split
    · rfl
    · split
      · exact congrArg (Answered.mk · _) (State.modPort_holding s p h _ _)
      · rfl
  · rfl

theorem logReadBody_holding : logReadBody p args (s.holding p h) = (logReadBody p args s).holding p h := by
  unfold logReadBody
  simp only [s.port_holding p h PortCtx.mask fun _ => rfl]
  split
  · split <;> rfl
  · rfl

theorem engineBody_holding (clocked : List Port) (id : CommandId) (ok : (s.port p).noAddress) :
    engineBody p clocked id args (s.holding p h) = (engineBody p clocked id args s).holding p h := by
  cases id
  case status => exact statusBody_holding s p h args
  case portSet => exact portSetBody_holding s p h args
  case switchReset => exact switchResetBody_holding s p h args clocked ok
  case reserve => exact reserveBody_holding s p h args
  case renew => exact renewBody_holding s p h args
  case release => exact releaseBody_holding s p h args
  case revoke => exact revokeBody_holding s p h args
  case leaseList => rfl
  case segmentSet => exact segmentSetBody_holding s p h args
  case segmentRecover => exact segmentRecoverBody_holding s p h args
  case mapSet => exact mapSetBody_holding s p h args
  case mapClear => exact mapClearBody_holding s p h args
  case mapRead => exact mapReadBody_holding s p h args
  case portRestore => exact portRestoreBody_holding s p h args
  case logRead => exact logReadBody_holding s p h args

theorem State.checked_holding (clocked : List Port) (id : CommandId) (ok : (s.port p).noAddress) :
    (s.holding p h).checked p id args (engineBody p clocked id) =
      (s.checked p id args (engineBody p clocked id)).holding p h := by
  have straps : (s.holding p h).straps = s.straps := rfl
  unfold State.checked
  rw [straps, s.port_holding p h PortCtx.quarantined (fun _ => rfl), engineBody_holding s p h args clocked id ok]
  repeat' split
  all_goals rfl

end

/-! ### The reply, and the byte held for it -/

section
variable (s : State) (p : Port)

theorem State.holding_held {b : Option AddrByte} (held : (s.port p).heldAddr = b) : s.holding p b = s := by
  refine State.modPort_self s p _ ?_
  subst held
  rfl

/-- With no byte held the reply ends the command. -/
theorem State.finishCommand_none (r : Reply) :
    (s.holding p none).finishCommand p r = (s.holding p none).answered p r.status r.payload := by
  have held : (((s.holding p none).modPort p fun c => { c with reply := r, handed := none }).port p).heldAddr = none := by
    simp [State.holding]
  unfold State.finishCommand
  simp only [held]
  rfl

/-- R157: with a byte held, it is resolved in the state the reply leaves. -/
theorem State.finishCommand_some (r : Reply) (b : AddrByte) :
    (s.holding p (some b)).finishCommand p r = ((s.holding p none).finishCommand p r).resolve p b := by
  have held : (((s.holding p (some b)).modPort p fun c => { c with reply := r, handed := none }).port p).heldAddr = some b := by
    simp [State.holding]
  rw [State.finishCommand_none]
  unfold State.finishCommand
  simp only [held]
  refine State.resolve_congr ?_ b
  simp only [State.holding, State.answered, State.modPort_modPort]
  rfl

/-- R157: a command answered with a byte held is the command answered without it, and the byte resolved. -/
theorem State.takeCommand_held {m : Message} {b : AddrByte} {id : CommandId} {args : List Byte} (clocked : List Port)
    (handed : (s.port p).handed = some m) (parse : m.parse = .command id args) (held : (s.port p).heldAddr = some b)
    (ok : (s.port p).noAddress) :
    ((((s.holding p none).takeCommand p id (engineBody p clocked id)).port p).handed = none) ∧
      s.takeCommand p id (engineBody p clocked id) =
        ((s.holding p none).takeCommand p id (engineBody p clocked id)).resolve p b := by
  have alone : ((s.holding p none).port p).handed = some m := by rw [s.port_holding p none PortCtx.handed fun _ => rfl, handed]
  have taken : ∀ t : State, (t.port p).handed = some m → t.takeCommand p id (engineBody p clocked id) =
      (t.checked p id args (engineBody p clocked id)).state.finishCommand p
        (t.checked p id args (engineBody p clocked id)).reply := fun t ht => by
    unfold State.takeCommand
    simp [ht, parse]
  have same := State.checked_holding s p none args clocked id ok
  have sameHeld := State.checked_holding s p (some b) args clocked id ok
  rw [State.holding_held s p held] at sameHeld
  let a := s.checked p id args (engineBody p clocked id)
  have heldState : a.state.holding p (some b) = a.state := congrArg Answered.state sameHeld.symm
  rw [taken s handed, taken _ alone, same]
  refine ⟨?_, ?_⟩
  · change ((((a.state.holding p none).finishCommand p a.reply)).port p).handed = none
    rw [State.finishCommand_none, State.answered, State.port_modPort_same]
  · change a.state.finishCommand p a.reply = ((a.state.holding p none).finishCommand p a.reply).resolve p b
    rw [← State.finishCommand_some, heldState]

/-- R157, R158: the same for a message refused before its command is known. -/
theorem State.unknownCommand_held {m : Message} {b : AddrByte} {st : Status} (handed : (s.port p).handed = some m)
    (parse : m.parse = .refused st) (held : (s.port p).heldAddr = some b) :
    s.unknownCommand p = (s.answered p st []).resolve p b := by
  have taken : s.unknownCommand p = (s.holding p (some b)).finishCommand p (Reply.bare st) := by
    rw [State.holding_held s p held]
    unfold State.unknownCommand
    simp [handed, parse]
  rw [taken, State.finishCommand_some, State.finishCommand_none]
  refine State.resolve_congr ?_ b
  simp only [State.holding, State.answered, State.modPort_modPort]
  rfl

/-! ### Taking the byte -/

/-- R156, R157: a message not yet answered makes the port hold the address byte. -/
theorem State.resolveOrHold_handed {m : Message} (b : AddrByte) (handed : (s.port p).handed = some m) :
    s.resolveOrHold p b = s.modPort p fun c => { c with heldAddr := some b, sclHeld := true, out := none } := by
  unfold State.resolveOrHold
  rw [handed]

theorem PortCtx.endWrite_start {c : PortCtx} (bytes : c.message.bytes ≠ []) :
    c.endWrite .start = { c with phase := .idle, handed := some c.message, message := ⟨[], false⟩ } := by
  unfold PortCtx.endWrite
  split
  · exact absurd (by assumption) bytes
  · exact absurd (by assumption) bytes
  · rfl

theorem State.addressByte_held_idle {m : Message} (b : AddrByte) (clock : (s.port p).sclHeld = false)
    (phase : (s.port p).phase = .idle) (handed : (s.port p).handed = some m) :
    s.addressByte p b = s.modPort p fun c => { c with heldAddr := some b, sclHeld := true, out := none } := by
  rw [← State.resolveOrHold_handed s p b handed]
  unfold State.addressByte
  simp [clock, phase]

theorem State.addressByte_held_write (b : AddrByte) (clock : (s.port p).sclHeld = false)
    (phase : (s.port p).phase = .mgmtWrite) (bytes : (s.port p).message.bytes ≠ []) :
    s.addressByte p b = s.modPort p fun c =>
      { c with phase := .idle, handed := some c.message, message := ⟨[], false⟩, heldAddr := some b, sclHeld := true
               out := none } := by
  have ended : s.addressByte p b = (s.modPort p (PortCtx.endWrite .start)).resolveOrHold p b := by
    unfold State.addressByte
    simp [clock, phase]
  have handed : ((s.modPort p (PortCtx.endWrite .start)).port p).handed = some (s.port p).message := by
    rw [State.port_modPort_same, PortCtx.endWrite_start bytes]
  rw [ended, State.resolveOrHold_handed _ p b handed, State.modPort_modPort]
  refine State.modPort_congr s p _ _ ?_
  simp only [PortCtx.endWrite_start bytes]

end

/-- Settles O39: the part holds the byte, and the reply's state is the one it is resolved in. -/
theorem heldAddressIsResolvedAfterTheReply : Obligations.HeldAddressIsResolvedAfterTheReply := by
  refine ⟨fun s p b low clock => ⟨fun phase handed => ?_, fun phase bytes => ?_⟩, fun s p b m low handed held free => ?_,
    fun s p low handed held => ?_⟩
  · obtain ⟨m, handed⟩ := Option.ne_none_iff_exists'.mp handed
    exact congrArg Host.Outcome.next (State.addressByte_held_idle (s.sampleLines low) p b clock phase handed)
  · exact congrArg Host.Outcome.next (State.addressByte_held_write (s.sampleLines low) p b clock phase bytes)
  · have ok : ((s.sampleLines low).port p).noAddress := fun b r pending => by
      rw [State.port_sampleLines, free] at pending
      exact nomatch pending
    refine ⟨fun id args clocked parse => ?_, fun st parse => ?_⟩
    · obtain ⟨answered, resolved⟩ := State.takeCommand_held (s.sampleLines low) p clocked handed parse held ok
      refine ⟨_, exec_engineRow p low clocked id _, answered, ?_⟩
      rw [exec_engineRow]
      exact congrArg Host.Outcome.next resolved
    · exact congrArg Host.Outcome.next (State.unknownCommand_held (s.sampleLines low) p handed parse held)
  · have parse := parse_messageBytes 0x24 [] .leaseList rfl (by decide)
    let t := (s.sampleLines low).holding p none
    have listed : (s.sampleLines low).takeCommand p .leaseList leaseListBody =
        (t.answered p .ok (leaseListPayload s.leases)).resolve p ⟨mgmtAddress s.straps, .read⟩ :=
      calc (s.sampleLines low).takeCommand p .leaseList leaseListBody
          = (s.sampleLines low).finishCommand p ⟨.ok, leaseListPayload s.leases⟩ := by
            unfold State.takeCommand
            rw [State.port_sampleLines, handed]
            simp only [parse]
            rfl
        _ = ((s.sampleLines low).holding p (some ⟨mgmtAddress s.straps, .read⟩)).finishCommand p
              ⟨.ok, leaseListPayload s.leases⟩ := by rw [State.holding_held (s.sampleLines low) p held]
        _ = _ := by rw [State.finishCommand_some, State.finishCommand_none]
    have management : (t.answered p .ok (leaseListPayload s.leases)).resolution p ⟨mgmtAddress s.straps, .read⟩ =
        .management .read := State.resolution_management rfl
    refine ⟨_, rfl, ?_⟩
    change let u := (s.sampleLines low).takeCommand p .leaseList leaseListBody
      (u.port p).phase = .mgmtRead ∧ (u.port p).ack = some .ack ∧ (u.port p).sclHeld = false ∧
        (u.port p).heldAddr = none ∧ (u.port p).handed = none ∧ (u.port p).reply = ⟨.ok, leaseListPayload s.leases⟩ ∧
        (u.port p).out = some 0x00
    rw [listed, State.resolve_eq, management]
    simp only [State.answered, State.port_modPort_same, PortCtx.enterManagement, PortCtx.resolving, PortCtx.takeLimits,
      PortCtx.answer, replyByte, Reply.bytes, true_and]
    rfl

end Sys2Proof.Machine
end

section
/-! A switch reset (R20, R41, R70, R98, R140, R152, R163): what it clears and what it keeps, in every state. -/

namespace Sys2Proof.Machine

/-! ### No quarantine is entered, no address byte is held -/

/-- Between the two states no port came to hold an address byte for a reply; no port entered or left quarantine unless an
entry was held back. -/
def Calmly (s t : State) : Prop := ∀ q,
  ((s.port q).heldAddr = none → (t.port q).heldAddr = none) ∧
  ((s.port q).quarantineHeld = false → (t.port q).quarantineHeld = false ∧ (t.port q).quarantined = (s.port q).quarantined)

theorem Calmly.refl (s : State) : Calmly s s := fun _ => ⟨id, fun held => ⟨held, rfl⟩⟩

theorem Calmly.trans {s t u : State} (h : Calmly s t) (g : Calmly t u) : Calmly s u := fun q => by
  obtain ⟨none, calm⟩ := h q
  obtain ⟨none', calm'⟩ := g q
  refine ⟨fun n => none' (none n), fun held => ?_⟩
  obtain ⟨held, same⟩ := calm held
  obtain ⟨held, same'⟩ := calm' held
  exact ⟨held, same'.trans same⟩

theorem ActsFor.calmly {p : Port} {s t : State} (h : ActsFor p s t) : Calmly s t := fun q => by
  by_cases e : q = p
  · subst e
    exact ⟨h.held, h.quarantine⟩
  · rw [h.port q e]
    exact Calmly.refl s q

theorem Calmly.foldl {α : Type} {f : State → α → State} (hf : ∀ s a, Calmly s (f s a)) (as : List α) (s : State) :
    Calmly s (as.foldl f s) := by
  induction as generalizing s with
  | nil => exact .refl s
  | cons a rest ih => exact (hf s a).trans (ih _)

theorem State.grantHead_calmly (s : State) (sg : Seg) : Calmly s (s.grantHead sg) := by
  unfold State.grantHead
  split
  · exact .refl s
  · rename_i c rest _
    simp only
    split
    · exact (State.openSingle_actsFor ((s.modSeg sg fun r => { r with waitList := rest }).setOwner c.port sg c.dest)
        c.port).calmly
    · exact ((State.markMember_actsFor ((s.modSeg sg fun r => { r with waitList := rest }).setOwner c.port sg c.dest)
        c.port sg .owned).trans (State.acquireNext_actsFor _ c.port)).calmly

theorem State.releaseSeg_calmly (s : State) (sg : Seg) (cause : Option AbortCause) : Calmly s (s.releaseSeg sg cause) := by
  unfold State.releaseSeg
  split
  · exact .refl s
  · rename_i o _
    have taken : Calmly s (((s.modSgc sg Sgc.released).takeCause o.port sg cause).modSeg sg fun r =>
        { r with owner := none }) := (State.takeCause_actsFor (s.modSgc sg Sgc.released) o.port sg cause).calmly
    simp only
    split
    · exact (taken.trans (State.grantHead_calmly _ sg)).trans (State.portReleased_actsFor _ o.port).calmly
    · exact taken.trans (State.portReleased_actsFor _ o.port).calmly

theorem State.closeSeg_calmly (s : State) (sg : Seg) : Calmly s (s.closeSeg sg) := by
  unfold State.closeSeg
  split
  case h_3 => exact State.releaseSeg_calmly (s.modSgc sg _) sg none
  case h_1 | h_2 => exact State.releaseSeg_calmly s sg none
  all_goals exact .refl s

theorem State.switchResetSegment_calmly (s : State) (sg : Seg) : Calmly s (s.switchResetSegment sg) := by
  unfold State.switchResetSegment
  split
  case h_1 | h_2 => exact .refl s
  all_goals
    split
    · exact State.closeSeg_calmly s sg
    · exact .refl s

/-! ### The reset without the logs -/

/-- Table 9-6, steps 1 to 4. -/
def State.resetSwept (s : State) (clocked : List Port) : State :=
  Port.all.foldl State.portReleased (Seg.all.foldl State.switchResetSegment (s.resetPorts clocked))

theorem State.switchReset_swept (s : State) (clocked : List Port) :
    s.switchReset clocked = (s.resetSwept clocked).resetLogs := rfl

theorem State.resetSwept_kept (s : State) (clocked : List Port) : Kept (s.resetPorts clocked) (s.resetSwept clocked) :=
  (Kept.foldl _ State.switchResetSegment_kept _ _).trans (Kept.foldl _ State.portReleased_kept _ _)

theorem State.resetSwept_calmly (s : State) (clocked : List Port) : Calmly (s.resetPorts clocked) (s.resetSwept clocked) :=
  (Calmly.foldl State.switchResetSegment_calmly _ _).trans
    (Calmly.foldl (fun t q => (State.portReleased_actsFor t q).calmly) _ _)

theorem State.port_resetLogs (s : State) (q : Port) : s.resetLogs.port q = s.port q := rfl

theorem State.log_resetLogs (s : State) (q : Port) : s.resetLogs.log q = resetNoticeLog (s.port q).mask := by
  simp [State.resetLogs, State.log]

/-- R145, R150, R152: the RESET_NOTICE is numbered 0 and sets the line if the mask asks for it. -/
theorem resetNoticeLog_eq (mask : Word16) :
    resetNoticeLog mask = ⟨[⟨0, false, ⟨.resetNotice, none, none, none, none, .zero⟩⟩], 1, mask.getLsbD 14⟩ := rfl

/-- What a switch reset makes of a port in every phase: it lifts the quarantine and leaves the byte held for a reply. -/
theorem PortCtx.switchReset_cleared (clocked : Bool) (c : PortCtx) :
    (c.switchReset clocked).quarantineHeld = false ∧ (c.switchReset clocked).withdrawal = none ∧
      (c.switchReset clocked).heldAddr = c.heldAddr := by
  have aborted : ∀ d : PortCtx, (d.aborted .switchReset).quarantineHeld = d.quarantineHeld ∧
      (d.aborted .switchReset).withdrawal = d.withdrawal ∧ (d.aborted .switchReset).heldAddr = d.heldAddr := fun d => by
    unfold PortCtx.aborted PortCtx.abortFace
    split
    · exact ⟨rfl, rfl, rfl⟩
    · split <;> exact ⟨rfl, rfl, rfl⟩
    all_goals exact ⟨rfl, rfl, rfl⟩
  unfold PortCtx.switchReset
  simp only
  split
  case h_7 | h_8 | h_10 => exact aborted _
  case h_9 => split <;> exact aborted _
  all_goals exact ⟨rfl, rfl, rfl⟩

/-- R163: the command is answered OK when the reset is done. -/
theorem exec_switchReset_asked {s : State} {p : Port} (found : ResetSample) (asked : s.asked p 0x0F [])
    (allowed : privileged s.straps p = true) :
    exec (.switchReset p found) s = .next (((s.sampleLines found.low).switchReset found.clocked).answered p .ok []) := by
  let t := s.sampleLines found.low
  have clear : ((t.switchReset found.clocked).port p).heldAddr = none := by
    refine ((State.resetSwept_calmly t found.clocked) p).1 ?_
    rw [State.port_resetPorts]
    exact (PortCtx.switchReset_cleared _ _).2.2.trans asked.2
  refine congrArg Host.Outcome.next ?_
  have pass : t.checked p .switchReset [] (switchResetBody found.clocked) = switchResetBody found.clocked [] t :=
    State.checked_pass (s := t) (id := .switchReset) (args := []) rfl (fun _ => allowed) nofun _
  rw [State.takeCommand_asked (s := t) asked .switchReset rfl (by decide), pass]
  exact State.finishCommand_noAddress clear .ok []

/-- What the reset clears and keeps of a port's settings. -/
theorem State.port_resetSwept_settings (s : State) (clocked : List Port) (q : Port) :
    let c := (s.resetSwept clocked).port q
    c.quarantined = false ∧ c.quarantineHeld = false ∧ c.errCount = 0 ∧ c.holdLimit = (s.port q).holdLimit ∧
      c.idleLimit = (s.port q).idleLimit ∧ c.mask = (s.port q).mask ∧ c.reply = (s.port q).reply := by
  have kept := (State.resetSwept_kept s clocked).port q
  have calm := ((State.resetSwept_calmly s clocked) q).2
  rw [State.port_resetPorts] at kept calm
  obtain ⟨first, quarantined⟩ := PortCtx.switchReset_kept (clocked.contains q) (s.port q)
  obtain ⟨held, lifted⟩ := calm (PortCtx.switchReset_cleared _ _).1
  have err : ((s.port q).switchReset (clocked.contains q)).errCount = 0 := by
    rcases first.errCount with e | e <;> exact e
  refine ⟨lifted.trans quarantined, held, ?_, kept.holdLimit.trans first.holdLimit, kept.idleLimit.trans first.idleLimit,
    kept.mask.trans first.mask, kept.reply.trans first.reply⟩
  rcases kept.errCount with e | e
  · exact e.trans err
  · exact e

theorem State.log_resetSwept (s : State) (clocked : List Port) (q : Port) :
    (s.switchReset clocked).log q = ⟨[⟨0, false, ⟨.resetNotice, none, none, none, none, .zero⟩⟩], 1,
      (s.port q).mask.getLsbD 14⟩ := by
  obtain ⟨_, _, _, _, _, mask, _⟩ := State.port_resetSwept_settings s clocked q
  rw [State.switchReset_swept, State.log_resetLogs, resetNoticeLog_eq, mask]

/-- R20, R41, R98, R152, R163: what a switch reset clears and keeps, from every state. -/
theorem State.switchReset_clears (s : State) (p : Port) (clocked : List Port) :
    let t := (s.switchReset clocked).answered p .ok []
    t.leases = [] ∧ t.nextLeaseId = 1 ∧ t.map = s.map ∧ t.straps = s.straps ∧ (t.port p).reply = ⟨.ok, []⟩ ∧
      (∀ q, q ≠ p → (t.port q).reply = (s.port q).reply) ∧
      (∀ q, (t.port q).quarantined = false ∧ (t.port q).quarantineHeld = false ∧ (t.port q).errCount = 0 ∧
        (t.port q).holdLimit = (s.port q).holdLimit ∧ (t.port q).idleLimit = (s.port q).idleLimit ∧
        (t.port q).mask = (s.port q).mask) ∧
      (∀ q, t.log q = ⟨[⟨0, false, ⟨.resetNotice, none, none, none, none, .zero⟩⟩], 1, (s.port q).mask.getLsbD 14⟩) ∧
      (∀ sg, (t.sgc sg).pendingRate = (s.sgc sg).pendingRate ∧ (t.sgc sg).pendingStuck = (s.sgc sg).pendingStuck ∧
        (t.sgc sg).broadcastFlag = (s.sgc sg).broadcastFlag) := by
  have kept := State.resetSwept_kept s clocked
  have settings := State.port_resetSwept_settings s clocked
  refine ⟨List.sublist_nil.mp kept.leases, kept.counter, kept.map, kept.straps, ?_, fun q other => ?_, fun q => ?_,
    State.log_resetSwept s clocked, fun sg => ⟨(kept.sgc sg).pendingRate, (kept.sgc sg).pendingStuck,
      (kept.sgc sg).broadcastFlag⟩⟩
  · rw [State.answered, State.port_modPort_same]
  · obtain ⟨_, _, _, _, _, _, reply⟩ := settings q
    rw [State.answered, State.port_modPort_ne _ _ _ other]
    exact reply
  · obtain ⟨quarantined, held, err, hold, idle, mask, _⟩ := settings q
    by_cases e : q = p
    · subst e
      rw [State.answered, State.port_modPort_same]
      exact ⟨quarantined, held, err, hold, idle, mask⟩
    · rw [State.answered, State.port_modPort_ne _ _ _ e]
      exact ⟨quarantined, held, err, hold, idle, mask⟩

end Sys2Proof.Machine
end

section
/-! A switch reset of a well-kept part (Tables 3-7 and 4-9): each segment is closed by its line state, and each port is left
draining unless a segment of its own has a STOP to send first. -/

namespace Sys2Proof.Machine

/-! ### The sweep over the segments -/

/-- Table 4-9: what the reset leaves of a segment controller, its segment owned or not. -/
def Sgc.swept (owned : Bool) (c : Sgc) : Sgc :=
  match c.line with
  | .recovery => { c with origin := none, freeCheck := true }
  | .faulted => { c with freeCheck := true }
  | .idle | .foreign | .busWait | .address | .write | .read | .ackHold | .parked | .stopping => if owned then c.closed else c

/-- Nothing waits for a segment, for an address or for a quarantine: what the reset's first steps leave. -/
structure State.quieted (r : State) : Prop where
  list : ∀ x, (r.seg x).waitList = []
  noAddress : ∀ q, (r.port q).noAddress
  held : ∀ q, (r.port q).quarantineHeld = false

/-- The sweep has come over the listed segments: each is released or closed, and a port that owns nothing more may have acted
on what was pending. -/
structure State.sweeping (r : State) (done : List Seg) (t : State) : Prop where
  seg : ∀ x, t.seg x = if x ∈ done ∧ (r.sgc x).line.frees = true then { r.seg x with owner := none } else r.seg x
  sgc : ∀ x, t.sgc x = if x ∈ done then (r.sgc x).swept (r.seg x).owner.isSome else r.sgc x
  port : ∀ q, t.port q = r.port q ∨
    ∃ e, (r.port q).release = some (.ending e) ∧ t.ownedBy q = [] ∧ t.port q = (r.port q).acted e

/-- R44: what was pending has been acted on, or waits for a segment. -/
def State.settled (t : State) (q : Port) : Prop := (t.port q).release = none ∨ t.ownedBy q ≠ []

theorem State.sweeping.start (r : State) : r.sweeping [] r :=
  ⟨fun _ => by simp, fun _ => by simp, fun _ => .inl rfl⟩

section
variable {r t : State} {done : List Seg}

/-- R44: an attempt to act on what is pending either finds nothing to do or acts on END or ABORT. -/
theorem State.sweeping.portReleased_cases (h : r.sweeping done t) (quiet : r.quieted) (q : Port) :
    t.portReleased q = t ∧ t.settled q ∨
      ∃ e, (r.port q).release = some (.ending e) ∧ t.ownedBy q = [] ∧ t.port q = r.port q ∧
        t.portReleased q = t.modPort q (PortCtx.acted e) := by
  rcases h.port q with same | ⟨e, _, _, acted⟩
  · cases release : (r.port q).release with
    | none =>
      have none : (t.port q).release = none := by rw [same, release]
      exact .inl ⟨by simp only [State.portReleased, none], .inl none⟩
    | some pend =>
      cases pend with
      | address b e => exact absurd release (quiet.noAddress q b e)
      | ending e =>
        by_cases owned : t.ownedBy q = []
        · exact .inr ⟨e, rfl, owned, same, State.portReleased_ending (by rw [same, release]) owned
            (by rw [same]; exact quiet.held q)⟩
        · obtain ⟨x, hx⟩ := List.exists_mem_of_ne_nil _ owned
          exact .inl ⟨State.portReleased_waits (State.mem_ownedBy.mp hx), .inr owned⟩
  · have none : (t.port q).release = none := by rw [acted]; rfl
    exact .inl ⟨by simp only [State.portReleased, none], .inl none⟩

theorem State.sweeping.portReleased (h : r.sweeping done t) (quiet : r.quieted) (q : Port) :
    r.sweeping done (t.portReleased q) := by
  rcases h.portReleased_cases quiet q with ⟨same, _⟩ | ⟨e, release, owned, _, acts⟩
  · rw [same]
    exact h
  · rw [acts]
    refine ⟨h.seg, h.sgc, fun z => ?_⟩
    by_cases other : z = q
    · subst other
      refine .inr ⟨e, release, owned, ?_⟩
      rw [State.port_modPort_same]
      exact congrArg _ (by assumption)
    · rw [State.port_modPort_ne _ _ _ other]
      exact h.port z

/-- R44: acting for one port leaves the others settled. -/
theorem State.sweeping.settled_portReleased (h : r.sweeping done t) (quiet : r.quieted) {q z : Port}
    (settled : t.settled z ∨ z = q) : (t.portReleased q).settled z := by
  rcases h.portReleased_cases quiet q with ⟨same, here⟩ | ⟨e, _, _, _, acts⟩
  · rw [same]
    rcases settled with settled | rfl
    · exact settled
    · exact here
  · rw [acts]
    by_cases other : z = q
    · subst other
      left
      rw [State.port_modPort_same]
      rfl
    · have settled := settled.resolve_right other
      rw [State.settled, State.port_modPort_ne _ _ _ other]
      exact settled

theorem State.sweeping.foldl_portReleased (quiet : r.quieted) (qs : List Port) {t : State} (h : r.sweeping done t) :
    r.sweeping done (qs.foldl State.portReleased t) ∧
      ∀ z, t.settled z ∨ z ∈ qs → (qs.foldl State.portReleased t).settled z := by
  induction qs generalizing t with
  | nil => exact ⟨h, fun z hz => hz.resolve_right List.not_mem_nil⟩
  | cons q rest ih =>
    obtain ⟨swept, settled⟩ := ih (h.portReleased quiet q)
    refine ⟨swept, fun z hz => settled z ?_⟩
    by_cases later : z ∈ rest
    · exact .inr later
    · refine .inl (h.settled_portReleased quiet (hz.imp_right fun mem => ?_))
      exact (List.mem_cons.mp mem).resolve_right later

/-- One more segment swept, its controller and its owner as given. -/
theorem State.sweeping.extend (h : r.sweeping done t) {x : Seg} {u : State} (seg : ∀ y, y ≠ x → u.seg y = t.seg y)
    (sgc : ∀ y, y ≠ x → u.sgc y = t.sgc y) (ports : u.ports = t.ports)
    (here : u.seg x = if (r.sgc x).line.frees = true then { r.seg x with owner := none } else r.seg x)
    (controller : u.sgc x = (r.sgc x).swept (r.seg x).owner.isSome) (fresh : x ∉ done) : r.sweeping (x :: done) u := by
  have port : ∀ q, u.port q = t.port q := fun q => congrArg (PerPort.get · q) ports
  refine ⟨fun y => ?_, fun y => ?_, fun q => ?_⟩
  · by_cases e : y = x
    · subst e
      simpa using here
    · rw [seg y e, h.seg y]
      simp [e]
  · by_cases e : y = x
    · subst e
      simpa using controller
    · rw [sgc y e, h.sgc y]
      simp [e]
  · rw [port q]
    refine (h.port q).imp_right fun ⟨e, release, owned, acted⟩ => ⟨e, release, ?_, acted⟩
    refine List.eq_nil_iff_forall_not_mem.mpr fun y hy => ?_
    have owns := State.mem_ownedBy.mp hy
    by_cases same : y = x
    · subst same
      have before : t.seg y = r.seg y := by rw [h.seg y, if_neg fun hd => fresh hd.1]
      have : t.owns q y = true := by
        rw [State.owns] at owns ⊢
        rw [here] at owns
        rw [before]
        by_cases frees : (r.sgc y).line.frees = true
        · rw [if_pos frees] at owns
          exact absurd owns Bool.false_ne_true
        · rw [if_neg frees] at owns
          exact owns
      rw [← State.mem_ownedBy, owned] at this
      contradiction
    · have : t.owns q y = true := by
        rw [State.owns, seg y same] at owns
        exact owns
      rw [← State.mem_ownedBy, owned] at this
      contradiction

/-- Table 4-9: the reset of a segment that no port owns. -/
theorem State.switchResetSegment_unowned {x : Seg} (owner : (t.seg x).owner = none) :
    t.switchResetSegment x = t.modSgc x (Sgc.swept false) := by
  unfold State.switchResetSegment
  rw [owner]
  cases line : (t.sgc x).line with
  | recovery | faulted => exact State.modSgc_congr t x _ _ (by simp only [Sgc.swept, line])
  | idle | foreign | busWait | address | write | read | ackHold | parked | stopping =>
    exact (State.modSgc_self t x _ (by simp [Sgc.swept, line])).symm

/-- Table 4-9: the reset of an owned segment is its close, or its recovery goes on to the check. -/
theorem State.switchResetSegment_owned {x : Seg} {o : Owner} (owner : (t.seg x).owner = some o)
    (list : (t.seg x).waitList = []) :
    t.switchResetSegment x =
      if (t.sgc x).line.frees = true then ((t.modSgc x (Sgc.swept true)).disowned x).portReleased o.port
      else t.modSgc x (Sgc.swept true) := by
  have closed : (t.sgc x).swept true = (t.sgc x).closed → t.closeSeg x = if (t.sgc x).line.frees = true then
      ((t.modSgc x (Sgc.swept true)).disowned x).portReleased o.port else t.modSgc x (Sgc.swept true) := fun same => by
    rw [State.closeSeg_closed (p := o.port) (k := o.kind) owner fun _ => list, State.modSgc_congr t x _ Sgc.closed same]
  unfold State.switchResetSegment
  rw [owner]
  cases line : (t.sgc x).line with
  | recovery | faulted => exact State.modSgc_congr t x _ _ (by simp only [Sgc.swept, line])
  | idle | foreign | busWait | address | write | read | ackHold | parked | stopping =>
    rw [line] at closed
    exact closed (by simp [Sgc.swept, line])

theorem State.sweeping.segment (h : r.sweeping done t) (quiet : r.quieted) {x : Seg} (fresh : x ∉ done) :
    r.sweeping (x :: done) (t.switchResetSegment x) := by
  have seg : t.seg x = r.seg x := by rw [h.seg x, if_neg fun hd => fresh hd.1]
  have sgc : t.sgc x = r.sgc x := by rw [h.sgc x, if_neg fresh]
  have controller : ∀ b, (r.seg x).owner.isSome = b →
      (t.modSgc x (Sgc.swept b)).sgc x = (r.sgc x).swept (r.seg x).owner.isSome := fun b hb => by
    rw [State.sgc_modSgc_same, sgc, hb]
  have others : ∀ b, ∀ y, y ≠ x → (t.modSgc x (Sgc.swept b)).sgc y = t.sgc y := fun b y e => State.sgc_modSgc_ne t x _ e
  cases owner : (r.seg x).owner with
  | none =>
    rw [State.switchResetSegment_unowned (by rw [seg, owner])]
    refine h.extend (fun _ _ => rfl) (others false) rfl ?_ (controller false (by rw [owner]; rfl)) fresh
    have same : ({ r.seg x with owner := none } : SegRecord) = r.seg x := by rw [← owner]
    rw [same, ite_self]
    exact seg
  | some o =>
    have some : (r.seg x).owner.isSome = true := by rw [owner]; rfl
    rw [State.switchResetSegment_owned (by rw [seg, owner]) (by rw [seg, quiet.list x]), sgc]
    split
    · rename_i frees
      refine State.sweeping.portReleased ?_ quiet o.port
      refine h.extend (fun y e => State.seg_modSeg_ne (t.modSgc x (Sgc.swept true)) x _ e) (others true) rfl ?_
        (controller true some) fresh
      rw [if_pos frees, State.disowned, State.seg_modSeg_same]
      exact congrArg (fun g : SegRecord => { g with owner := none }) seg
    · rename_i stays
      refine h.extend (fun _ _ => rfl) (others true) rfl ?_ (controller true some) fresh
      rw [if_neg stays]
      exact seg

theorem State.sweeping.foldl_segments (quiet : r.quieted) {xs : List Seg} (nodup : xs.Nodup)
    (fresh : ∀ x ∈ xs, x ∉ done) {t : State} (h : r.sweeping done t) :
    r.sweeping (xs.reverse ++ done) (xs.foldl State.switchResetSegment t) := by
  induction xs generalizing t done with
  | nil => exact h
  | cons x rest ih =>
    obtain ⟨other, nodup⟩ := List.nodup_cons.mp nodup
    have step := ih nodup (done := x :: done) (fun y hy hd => by
      rcases List.mem_cons.mp hd with e | hd
      · exact other (e ▸ hy)
      · exact fresh y (List.mem_cons_of_mem _ hy) hd) (h.segment quiet (fresh x List.mem_cons_self))
    rw [List.reverse_cons, List.append_assoc]
    exact step

/-- The whole sweep: every segment by its line state, and every port settled. -/
theorem State.sweeping.all (quiet : r.quieted) :
    let t := Port.all.foldl State.portReleased (Seg.all.foldl State.switchResetSegment r)
    r.sweeping Seg.all.reverse t ∧ ∀ q, t.settled q := by
  have segments := State.sweeping.foldl_segments quiet Seg.nodup_all (fun _ _ => List.not_mem_nil) (State.sweeping.start r)
  rw [List.append_nil] at segments
  obtain ⟨swept, settled⟩ := State.sweeping.foldl_portReleased quiet Port.all segments
  exact ⟨swept, fun q => settled q (.inr (Port.mem_all q))⟩

end

end Sys2Proof.Machine
end

section
/-! The switch reset command over a well-kept part: every row of Tables 3-7 and 4-9. -/

namespace Sys2Proof.Machine

/-! ### The segments (Table 4-9) -/

theorem LineState.frees_eq (l : LineState) : l.frees = !l.busy := by cases l <;> rfl

/-- Table 4-9, row by row. -/
structure Sgc.resetRows (c d : Sgc) (owner : Option Owner) : Prop where
  free : c.line = .idle ∨ c.line = .foreign → d.line = c.line
  busWait : c.line = .busWait → owner ≠ none → d.line = if c.busBusy then .foreign else .idle
  atWork : c.line = .address ∨ c.line = .write ∨ c.line = .read → owner ≠ none → d = { c with closing := true }
  held : c.line = .ackHold ∨ c.line = .parked → owner ≠ none → d.line = .stopping ∧ d.closing = true
  stopping : c.line = .stopping → d = c
  away : c.line = .recovery ∨ c.line = .faulted →
    d.line = c.line ∧ d.freeCheck = true ∧ clockDrive d = .released ∧ dataDrive d = .released
  origin : c.line = .recovery → d.origin = none

theorem Sgc.swept_rows (c : Sgc) (owner : Option Owner) : c.resetRows (c.swept owner.isSome) owner := by
  have calm : c.line ≠ .recovery → c.line ≠ .faulted → c.swept owner.isSome = if owner.isSome then c.closed else c :=
    fun recovery faulted => by
      unfold Sgc.swept
      split
      · exact absurd (by assumption) recovery
      · exact absurd (by assumption) faulted
      all_goals rfl
  have owned : c.line ≠ .recovery → c.line ≠ .faulted → owner ≠ none → c.swept owner.isSome = c.closed :=
    fun recovery faulted some => by rw [calm recovery faulted, if_pos (Option.isSome_iff_ne_none.mpr some)]
  refine ⟨fun line => ?_, fun line some => ?_, fun line some => ?_, fun line some => ?_, fun line => ?_, fun line => ?_,
    fun line => by simp only [Sgc.swept, line]⟩
  · have away : c.line ≠ .recovery ∧ c.line ≠ .faulted := by rcases line with l | l <;> rw [l] <;> exact ⟨nofun, nofun⟩
    rw [calm away.1 away.2]
    split
    · rcases line with l | l <;> simp only [Sgc.closed, l, Sgc.left]
    · rfl
  · rw [owned (by rw [line]; nofun) (by rw [line]; nofun) some]
    simp only [Sgc.closed, line, Sgc.left]
  · have away : c.line ≠ .recovery ∧ c.line ≠ .faulted := by rcases line with l | l | l <;> rw [l] <;> exact ⟨nofun, nofun⟩
    rw [owned away.1 away.2 some]
    rcases line with l | l | l <;> simp only [Sgc.closed, l]
  · have away : c.line ≠ .recovery ∧ c.line ≠ .faulted := by rcases line with l | l <;> rw [l] <;> exact ⟨nofun, nofun⟩
    rw [owned away.1 away.2 some]
    rcases line with l | l <;> simp [Sgc.closed, l, Sgc.stops]
  · rw [calm (by rw [line]; nofun) (by rw [line]; nofun)]
    simp only [Sgc.closed, line, ite_self]
  · rcases line with l | l <;> simp [Sgc.swept, l, clockDrive, dataDrive, recoveryDrive]

/-! ### The ports (Table 3-7) -/

/-- What the reset clears in a port before it looks at the phase. -/
def PortCtx.unheld (c : PortCtx) : PortCtx :=
  { c with quarantined := false, quarantineHeld := false, errCount := 0, withdrawal := none }

/-- The read byte in hand counted, if its eighth bit has been clocked (R67). -/
def PortCtx.counted (clocked : Bool) (c : PortCtx) : PortCtx :=
  if c.phase = .fwdRead ∧ c.sclHeld = false ∧ clocked = true then c.countByte else c

section
variable {c : PortCtx} {clocked : Bool}

theorem PortCtx.switchReset_outside
    (phase : c.phase = .idle ∨ c.phase = .mgmtWrite ∨ c.phase = .mgmtRead ∨ c.phase = .drain) :
    c.switchReset clocked = c.unheld := by
  unfold PortCtx.switchReset
  rcases phase with phase | phase | phase | phase <;> simp only [phase, PortCtx.unheld]

theorem PortCtx.switchReset_claim (phase : c.phase = .claim) :
    c.switchReset clocked = match c.bset with
      | none => { (c.unheld.answer .nack).stopHold with phase := .drain, route := none }
      | some _ => { (c.unheld.answer .nack).stopHold with
          phase := .awaitEnd, route := none, release := some (.ending (.abort .switchReset)) } := by
  unfold PortCtx.switchReset
  cases set : c.bset <;> simp only [phase, set, PortCtx.unheld]

theorem PortCtx.switchReset_atWork
    (phase : c.phase = .opening ∨ c.phase = .fwdWrite ∨ c.phase = .fwdRead ∨ c.phase = .awaitEnd)
    (release : c.release = none) : c.switchReset clocked = (c.unheld.counted clocked).aborted .switchReset := by
  unfold PortCtx.switchReset PortCtx.counted
  rcases phase with phase | phase | phase | phase <;> simp only [phase, release, PortCtx.unheld]
  case inr.inr.inl =>
    cases clocked <;> cases c.sclHeld <;> rfl
  all_goals rfl

theorem PortCtx.switchReset_pending (phase : c.phase = .awaitEnd) {pend : Pending} (release : c.release = some pend) :
    c.switchReset clocked = c.unheld := by
  unfold PortCtx.switchReset
  simp only [phase, release, PortCtx.unheld]

/-- Table 7-2: the clock is released, an address byte not yet answered is NACKed. -/
theorem PortCtx.abortFace_released (c : PortCtx) :
    c.abortFace.sclHeld = false ∧ (c.phase = .opening → c.abortFace.ack = some .nack) ∧
      c.abortFace.bytesMoved = c.bytesMoved := by
  unfold PortCtx.abortFace
  cases c.phase
  case opening => exact ⟨rfl, fun _ => rfl, rfl⟩
  case fwdWrite =>
    simp only
    split
    · exact ⟨rfl, nofun, rfl⟩
    · rename_i clock
      exact ⟨by simpa using clock, nofun, rfl⟩
  all_goals exact ⟨rfl, nofun, rfl⟩

/-- What an abort leaves of a port. -/
theorem PortCtx.aborted_face (setter : AbortSetter) (c : PortCtx) :
    let d := c.aborted setter
    d.phase = .awaitEnd ∧ d.release = some (.ending (.abort setter)) ∧ d.abortReported = true ∧ d.sclHeld = false ∧
      d.hold.running = false ∧ d.idle.running = false ∧ (c.phase = .opening → d.ack = some .nack) ∧
      d.bytesMoved = c.bytesMoved := by
  obtain ⟨clock, opening, moved⟩ := c.abortFace_released
  exact ⟨rfl, rfl, rfl, clock, rfl, rfl, opening, moved⟩

theorem PortCtx.counted_bytes (c : PortCtx) (clocked : Bool) :
    (c.unheld.counted clocked).bytesMoved =
      (if c.phase = .fwdRead ∧ c.sclHeld = false ∧ clocked = true then oneMore c.bytesMoved else c.bytesMoved) ∧
      (c.unheld.counted clocked).phase = c.phase := by
  have phase : c.unheld.phase = c.phase := rfl
  have clock : c.unheld.sclHeld = c.sclHeld := rfl
  unfold PortCtx.counted
  rw [phase, clock]
  by_cases counts : c.phase = .fwdRead ∧ c.sclHeld = false ∧ clocked = true
  · rw [if_pos counts, if_pos counts]
    refine ⟨?_, rfl⟩
    simp only [PortCtx.countByte, oneMore, beq_iff_eq, PortCtx.unheld]
    split
    · rename_i full
      exact full.symm
    · rfl
  · rw [if_neg counts, if_neg counts]
    exact ⟨rfl, rfl⟩

end

/-- The port is in DRAIN with nothing of its transaction left. -/
def PortCtx.drained (c : PortCtx) : Prop := c.phase = .drain ∧ c.route = none ∧ c.bset = none ∧ c.release = none

theorem PortCtx.acted_abort (c : PortCtx) (setter : AbortSetter) : (c.acted (.abort setter)).drained := ⟨rfl, rfl, rfl, rfl⟩

/-- Table 3-7, row by row, for a port whose segments have a STOP to send first or not. -/
structure PortCtx.resetRows (c d : PortCtx) (clocked : Bool) (stays : Prop) : Prop where
  withdrawal : d.withdrawal = none
  outside : c.phase = .idle ∨ c.phase = .mgmtWrite ∨ c.phase = .mgmtRead ∨ c.phase = .drain → d.phase = c.phase
  claim : c.phase = .claim → d.drained ∧ d.ack = some .nack ∧ d.sclHeld = false ∧ d.hold.running = false
  atWork : c.phase = .opening ∨ c.phase = .fwdWrite ∨ c.phase = .fwdRead ∨ c.phase = .awaitEnd → c.release = none →
    d.abortReported = true ∧ d.sclHeld = false ∧ d.hold.running = false ∧ d.idle.running = false ∧
      (c.phase = .opening → d.ack = some .nack) ∧
      d.bytesMoved = (if c.phase = .fwdRead ∧ c.sclHeld = false ∧ clocked = true then oneMore c.bytesMoved
        else c.bytesMoved) ∧
      (stays → d.phase = .awaitEnd ∧ d.release = some (.ending (.abort .switchReset))) ∧ (¬ stays → d.drained)
  pending : ∀ e, c.release = some (.ending e) → stays →
    d.phase = .awaitEnd ∧ d.release = some (.ending e) ∧ d.abortReported = c.abortReported

/-- R44: what is pending after the reset's first steps is acted on when the port owns nothing. -/
structure PortCtx.settledFrom (c d : PortCtx) (stays : Prop) : Prop where
  none : c.release = none → d = c
  waits : stays → d = c
  acts : ∀ e, c.release = some (.ending e) → ¬ stays → d = c.acted e

theorem PortCtx.switchReset_rows {c d : PortCtx} {clocked : Bool} {stays : Prop}
    (settled : (c.switchReset clocked).settledFrom d stays) (pends : c.release ≠ none → c.phase = .awaitEnd)
    (acquiring : c.phase = .claim → ¬ stays) (address : c.noAddress) : c.resetRows d clocked stays := by
  have unpended : c.phase ≠ .awaitEnd → c.release = none := fun phase => by
    by_contra pending
    exact phase (pends pending)
  have either : d = c.switchReset clocked ∨ ∃ e, d = (c.switchReset clocked).acted e := by
    by_cases st : stays
    · exact .inl (settled.waits st)
    · cases release : (c.switchReset clocked).release with
      | none => exact .inl (settled.none release)
      | some pend =>
        cases pend with
        | ending e => exact .inr ⟨e, settled.acts e release st⟩
        | address b e => exact absurd release (PortCtx.switchReset_noAddress clocked address b e)
  refine ⟨?_, fun phase => ?_, fun phase => ?_, fun phase release => ?_, fun e release st => ?_⟩
  · have clear := (PortCtx.switchReset_cleared clocked c).2.1
    rcases either with same | ⟨e, same⟩ <;> rw [same] <;> exact clear
  · have reset := PortCtx.switchReset_outside (clocked := clocked) phase
    have release : c.release = none := unpended (by rcases phase with p | p | p | p <;> rw [p] <;> nofun)
    rw [settled.none (by rw [reset]; exact release), reset]
    rfl
  · have reset := PortCtx.switchReset_claim (clocked := clocked) phase
    cases set : c.bset with
    | none =>
      rw [set] at reset
      have release : c.release = none := unpended (by rw [phase]; nofun)
      rw [settled.none (by rw [reset]; exact release), reset]
      exact ⟨⟨rfl, rfl, set, release⟩, rfl, rfl, rfl⟩
    | some members =>
      rw [set] at reset
      rw [settled.acts _ (by rw [reset]) (acquiring phase), reset]
      exact ⟨PortCtx.acted_abort _ _, rfl, rfl, rfl⟩
  · have reset := PortCtx.switchReset_atWork (clocked := clocked) phase release
    obtain ⟨bytes, samePhase⟩ := PortCtx.counted_bytes c clocked
    obtain ⟨waits, pend, reported, clock, hold, idle, opening, moved⟩ :=
      PortCtx.aborted_face .switchReset (c.unheld.counted clocked)
    rw [samePhase] at opening
    rw [bytes] at moved
    rw [← reset] at waits pend reported clock hold idle opening moved
    by_cases st : stays
    · rw [settled.waits st]
      exact ⟨reported, clock, hold, idle, opening, moved, fun _ => ⟨waits, pend⟩, fun leaves => absurd st leaves⟩
    · rw [settled.acts _ pend st]
      exact ⟨reported, clock, rfl, rfl, opening, moved, fun st' => absurd st' st, fun _ => PortCtx.acted_abort _ _⟩
  · have reset := PortCtx.switchReset_pending (clocked := clocked) (pends (by rw [release]; nofun)) release
    rw [settled.waits st, reset]
    exact ⟨pends (by rw [release]; nofun), release, rfl⟩

end Sys2Proof.Machine
end

section
/-! The switch reset of a well-kept part, assembled. -/

namespace Sys2Proof.Machine

section
variable {s : State} {clocked : List Port}

theorem State.seg_resetPorts (s : State) (clocked : List Port) (x : Seg) :
    (s.resetPorts clocked).seg x = { s.seg x with waitList := [] } := by
  simp [State.resetPorts, State.removeClaims, State.seg]

theorem State.resetPorts_quieted (address : ∀ q, (s.port q).noAddress) : (s.resetPorts clocked).quieted where
  list x := by rw [State.seg_resetPorts]
  noAddress q := by
    rw [State.port_resetPorts]
    exact PortCtx.switchReset_noAddress _ (address q)
  held q := by
    rw [State.port_resetPorts]
    exact (PortCtx.switchReset_cleared _ _).1

/-- Table 4-9: what the sweep leaves of a segment. -/
theorem State.resetSwept_seg (address : ∀ q, (s.port q).noAddress) (x : Seg) :
    ((s.resetSwept clocked).seg x).waitList = [] ∧
      ((s.resetSwept clocked).seg x).owner = (if (s.sgc x).line.busy then (s.seg x).owner else none) ∧
      (s.sgc x).resetRows ((s.resetSwept clocked).sgc x) (s.seg x).owner := by
  obtain ⟨swept, _⟩ := State.sweeping.all (State.resetPorts_quieted (clocked := clocked) address)
  have member : x ∈ Seg.all.reverse := List.mem_reverse.mpr (Seg.mem_all x)
  have seg := swept.seg x
  have sgc := swept.sgc x
  have line : (s.resetPorts clocked).sgc x = s.sgc x := rfl
  rw [State.seg_resetPorts, line, LineState.frees_eq] at seg
  rw [if_pos member, State.seg_resetPorts, line] at sgc
  change (s.resetSwept clocked).seg x = _ at seg
  change (s.resetSwept clocked).sgc x = _ at sgc
  rw [seg, sgc]
  refine ⟨?_, ?_, Sgc.swept_rows _ _⟩
  · split <;> rfl
  · cases (s.sgc x).line.busy <;> simp [member]

/-- The port still owns a segment that has a STOP to send, or is in recovery. -/
def State.staysOn (s : State) (q : Port) : Prop := ∃ x, s.owns q x = true ∧ (s.sgc x).line.busy = true

theorem State.resetSwept_ownedBy (address : ∀ q, (s.port q).noAddress) (q : Port) :
    (s.resetSwept clocked).ownedBy q ≠ [] ↔ s.staysOn q := by
  have owns : ∀ x, (s.resetSwept clocked).owns q x = true ↔ s.owns q x = true ∧ (s.sgc x).line.busy = true := fun x => by
    obtain ⟨_, owner, _⟩ := State.resetSwept_seg (clocked := clocked) address x
    rw [State.owns, owner, State.owns]
    cases (s.sgc x).line.busy <;> simp
  rw [← List.isEmpty_eq_false_iff, List.isEmpty_eq_false_iff_exists_mem]
  simp only [State.mem_ownedBy, owns]
  rfl

/-- Table 3-7: what the sweep leaves of a port. -/
theorem State.resetSwept_port (address : ∀ q, (s.port q).noAddress) (q : Port) :
    ((s.port q).switchReset (clocked.contains q)).settledFrom ((s.resetSwept clocked).port q) (s.staysOn q) := by
  obtain ⟨swept, settled⟩ := State.sweeping.all (State.resetPorts_quieted (clocked := clocked) address)
  have port := swept.port q
  have settled := settled q
  rw [State.port_resetPorts] at port
  change (s.resetSwept clocked).port q = _ ∨ ∃ e, _ ∧ (s.resetSwept clocked).ownedBy q = [] ∧
    (s.resetSwept clocked).port q = _ at port
  change ((s.resetSwept clocked).port q).release = none ∨ (s.resetSwept clocked).ownedBy q ≠ [] at settled
  have owned := State.resetSwept_ownedBy (clocked := clocked) address q
  refine ⟨fun release => ?_, fun st => ?_, fun e release leaves => ?_⟩
  · rcases port with same | ⟨e, pend, _⟩
    · exact same
    · rw [release] at pend
      contradiction
  · rcases port with same | ⟨_, _, empty, _⟩
    · exact same
    · exact absurd empty (owned.mpr st)
  · rcases port with same | ⟨e', pend, _, acted⟩
    · rw [same, release] at settled
      exact absurd (owned.mp (settled.resolve_left nofun)) leaves
    · rw [release] at pend
      cases pend
      exact acted

/-- Table 3-7, where a release is pending in AWAIT_END alone (R44) and what is owned in CLAIM has had no START (R118). -/
theorem State.resetSwept_rows (pends : ∀ q, (s.port q).release ≠ none → (s.port q).phase = .awaitEnd)
    (acquiring : ∀ x o, (s.seg x).owner = some o → (s.port o.port).phase = .claim →
      (s.sgc x).line = .idle ∨ (s.sgc x).line = .foreign)
    (address : ∀ q, (s.port q).noAddress) (q : Port) :
    (s.port q).resetRows ((s.resetSwept clocked).port q) (clocked.contains q) (s.staysOn q) := by
  refine PortCtx.switchReset_rows (State.resetSwept_port address q) (pends q) (fun phase => ?_) (address q)
  rintro ⟨x, own, busy⟩
  obtain ⟨k, owner⟩ := State.owner_of_owns own
  rcases acquiring x _ owner phase with line | line <;> rw [line] at busy <;> contradiction

end

/-- The reply changes nothing that the rows speak of. -/
theorem PortCtx.resetRows.congr {c d e : PortCtx} {clocked : Bool} {stays : Prop} (h : c.resetRows d clocked stays)
    {r : Reply} {m : Option Message} (same : e = { d with reply := r, handed := m }) : c.resetRows e clocked stays := by
  subst same
  exact ⟨h.withdrawal, h.outside, h.claim, h.atWork, h.pending⟩

theorem State.port_answered_rows {s t : State} {p q : Port} {clocked : Bool} {stays : Prop} (st : Status) (payload : List Byte)
    (h : (s.port q).resetRows (t.port q) clocked stays) :
    (s.port q).resetRows ((t.answered p st payload).port q) clocked stays := by
  by_cases e : q = p
  · subst e
    exact h.congr (State.port_modPort_same t q _)
  · rw [State.answered, State.port_modPort_ne _ _ _ e]
    exact h

/-- Settles O42: what every state keeps and loses, then the rows of the tables. -/
theorem switchResetStartsThePartAgain : Obligations.SwitchResetStartsThePartAgain := by
  refine ⟨fun s p found asked allowed => ?_, fun s p found asked allowed ok address => ?_⟩
  · exact ⟨_, exec_switchReset_asked found asked allowed, State.switchReset_clears (s.sampleLines found.low) p found.clocked⟩
  · let u := s.sampleLines found.low
    have address' : ∀ q, (u.port q).noAddress := fun q b e => address q b e
    refine ⟨_, exec_switchReset_asked found asked allowed, fun x => ?_, fun q => ?_⟩
    · obtain ⟨list, owner, rows⟩ := State.resetSwept_seg (s := u) (clocked := found.clocked) address' x
      exact ⟨list, owner, rows.free, rows.busWait, rows.atWork, rows.held, rows.stopping, rows.away, rows.origin⟩
    · have swept := State.resetSwept_rows (s := u) (clocked := found.clocked) ok.releasePhase ok.acquiring address' q
      have rows := State.port_answered_rows (s := u) (t := u.switchReset found.clocked) (p := p) .ok [] swept
      refine ⟨rows.withdrawal, rows.outside, rows.claim, fun phase release => ?_, rows.pending⟩
      have working := rows.atWork phase release
      simp only [List.contains_iff_mem] at working
      exact working

end Sys2Proof.Machine
end
